-- ==== Sys2Proof/Word.lean ====
section
/-! DEFINITION. The three word types of the block (00_scope.md R9, R10): a byte, a 32-bit register word, a byte
sequence. -/

namespace Sys2Proof

/-- A byte: 8 bits, a value 0 to 255 (R9). -/
abbrev Byte := BitVec 8

/-- A word: 32 bits, bit 0 the least significant (R10). Every register of the block is one word (10_state.md, 2). -/
abbrev Word := BitVec 32

/-- A byte sequence, its first byte at index 0 (R9, 20_memory.md R68). -/
abbrev Bytes := List Byte

end Sys2Proof
end

