-- ==== Sys2Proof/Machine/Bytes.lean ====
section
/-! DEFINITION. Integers as byte sequences and back (00_scope.md R9 to R12), in the two byte orders of the block
(20_memory.md R70). -/

namespace Sys2Proof.Machine

/-- `be_n(v)` (R11): the `n` bytes of `v`, most significant first. For `v` ≥ 2^(8n), where R11 does not
define it, the bits above the `n` bytes are dropped: DESIGN CHOICE (log entry 21). -/
def beBytes (n v : Nat) : Bytes :=
  match n with
  | 0 => []
  | k + 1 => BitVec.ofNat 8 (v / 256 ^ k) :: beBytes k v

/-- `le_n(v) = rev(be_n(v))` (R11). -/
def leBytes (n v : Nat) : Bytes := (beBytes n v).reverse

/-- `int_be(s)` (R11). -/
def intBE (s : Bytes) : Nat := s.foldl (fun acc b => acc * 256 + b.toNat) 0

/-- `int_le(s)` (R11). -/
def intLE (s : Bytes) : Nat := intBE s.reverse

/-- A byte order (R70): service order is `big`, device order is `little`. -/
inductive ByteOrder where
  | big
  | little
  deriving DecidableEq, Repr

/-- `rdint(o, s)` (40_cursor.md R106). -/
def readInt (o : ByteOrder) (s : Bytes) : Nat :=
  match o with
  | .big => intBE s
  | .little => intLE s

/-- `v` as 4 bytes in the given order: `be_4` or `le_4` (R11; `u32ord` of 44_gcm.md R188). -/
def writeInt4 (o : ByteOrder) (v : Nat) : Bytes :=
  match o with
  | .big => beBytes 4 v
  | .little => leBytes 4 v

/-- `revprim(p, v)` (R12): byte `kp + j` of the result is byte `kp + (p - 1 - j)` of `v`. R12 defines it for `p` ≥ 1
dividing `|v|` only. Elsewhere the result is as long as `v` and a byte past the end of `v` reads as 0x00: DESIGN CHOICE
(log entry 21). -/
def revPrim (p : Nat) (v : Bytes) : Bytes :=
  (List.range v.length).map fun i => v.getD (p * (i / p) + (p - 1 - i % p)) 0

/-- `0^n` (R9). -/
def zeros (n : Nat) : Bytes := List.replicate n 0

/-- Bytewise exclusive or (48_crypto_primitives.md R215). The result is as long as the shorter sequence, as R226 asks
for the last piece of GCTR, the only one of another length. -/
def xorBytes (a b : Bytes) : Bytes := List.zipWith (· ^^^ ·) a b

/-- A sequence cut into pieces of `n` bytes, the last one possibly short. `fuel` bounds the number of pieces; the
length of the sequence is enough for every `n` of at least 1. -/
def chunks (n : Nat) (fuel : Nat) (s : Bytes) : List Bytes :=
  match fuel with
  | 0 => []
  | k + 1 => if s.isEmpty then [] else s.take n :: chunks n k (s.drop n)

end Sys2Proof.Machine
end

