-- ==== Sys2Proof/Machine/Aes.lean ====
section
/-! DEFINITION. AES-256, forward direction (48_crypto_primitives.md R216 to R220). DEDUCED (log entry 18). -/

namespace Sys2Proof.Machine

/-- A block: 16 bytes as an integer, the first byte the most significant (R222). -/
abbrev Block := BitVec 128

/-- The 16 bytes of a block. -/
def blockBytes (x : Block) : Bytes := beBytes 16 x.toNat

/-- A block from its 16 bytes, the last 16 of a longer sequence, the low bytes for a shorter one: DESIGN CHOICE (log
entry 21). -/
def blockOf (s : Bytes) : Block := BitVec.ofNat 128 (intBE s)

/-- The S-box table of R217, one number for each row, its leftmost byte the most significant. -/
def sboxRows : List Nat :=
  [0x637c777bf26b6fc53001672bfed7ab76, 0xca82c97dfa5947f0add4a2af9ca472c0,
   0xb7fd9326363ff7cc34a5e5f171d83115, 0x04c723c31896059a071280e2eb27b275,
   0x09832c1a1b6e5aa0523bd6b329e32f84, 0x53d100ed20fcb15b6acbbe394a4c58cf,
   0xd0efaafb434d338545f9027f503c9fa8, 0x51a3408f929d38f5bcb6da2110fff3d2,
   0xcd0c13ec5f974417c4a77e3d645d1973, 0x60814fdc222a908846eeb814de5e0bdb,
   0xe0323a0a4906245cc2d3ac629195e479, 0xe7c8376d8dd54ea96c56f4ea657aae08,
   0xba78252e1ca6b4c6e8dd741f4bbd8b8a, 0x703eb5664803f60e613557b986c11d9e,
   0xe1f8981169d98e949b1e87e9ce5528df, 0x8ca1890dbfe6426841992d0fb054bb16]

/-- `SBOX[a]` (R217): row = high nibble, column = low nibble. -/
def sbox (a : Byte) : Byte := BitVec.ofNat 8 (sboxRows.getD (a.toNat / 16) 0 >>> (8 * (15 - a.toNat % 16)))

/-- `xtime(a)`, the product with 0x02 (R216). -/
def xtime (a : Byte) : Byte := if a.msb then (a <<< 1) ^^^ 0x1B else a <<< 1

/-- The product with 0x03: `xtime(a) ^ a` (R219). -/
def times3 (a : Byte) : Byte := xtime a ^^^ a

/-! ### Key expansion (R218) -/

/-- `SubWord`. -/
def subWord (w : Word) : Word :=
  sbox (w.extractLsb' 24 8) ++ sbox (w.extractLsb' 16 8) ++ sbox (w.extractLsb' 8 8) ++ sbox (w.extractLsb' 0 8)

/-- `RotWord`: the bytes rotated left by one. -/
def rotWord (w : Word) : Word := w.rotateLeft 8

/-- `RCON[j] << 24`, for `j` from 1 to 7. -/
def roundConstant (j : Nat) : Word := 1#32 <<< (24 + (j - 1))

/-- `w[i]` from the words before it, the latest first. -/
def nextKeyWord (ws : List Word) (i : Nat) : Word :=
  let t := ws.getD 0 0
  let t := if i % 8 = 0 then subWord (rotWord t) ^^^ roundConstant (i / 8)
    else if i % 8 = 4 then subWord t else t
  ws.getD 7 0 ^^^ t

/-- The words of the key itself, `w[0..8)`. -/
def keyWords (k : BitVec 256) : List Word := (List.range 8).map fun i => k.extractLsb' (32 * (7 - i)) 32

/-- The 60 words `w[0..60)`. -/
def expandKey (k : BitVec 256) : List Word :=
  ((List.range 52).foldl (fun ws j => nextKeyWord ws (j + 8) :: ws) (keyWords k).reverse).reverse

/-- Round key `r`, 16 bytes. -/
def roundKey (ws : List Word) (r : Nat) : Block :=
  ws.getD (4 * r) 0 ++ ws.getD (4 * r + 1) 0 ++ ws.getD (4 * r + 2) 0 ++ ws.getD (4 * r + 3) 0

/-! ### The round functions (R219) -/

/-- `SubBytes`. -/
def subBytes (s : Bytes) : Bytes := s.map sbox

/-- `ShiftRows`: byte `r + 4c` comes from `r + 4((c + r) mod 4)`. -/
def shiftRows (s : Bytes) : Bytes :=
  (List.range 16).map fun i => s.getD (i % 4 + 4 * ((i / 4 + i % 4) % 4)) 0

/-- `MixColumns`, column by column. -/
def mixColumns (s : Bytes) : Bytes :=
  match s with
  | a0 :: a1 :: a2 :: a3 :: rest =>
    (xtime a0 ^^^ times3 a1 ^^^ a2 ^^^ a3) :: (a0 ^^^ xtime a1 ^^^ times3 a2 ^^^ a3) ::
      (a0 ^^^ a1 ^^^ xtime a2 ^^^ times3 a3) :: (times3 a0 ^^^ a1 ^^^ a2 ^^^ xtime a3) :: mixColumns rest
  | _ => []

/-- A round with MixColumns and round key `r`. -/
def fullRound (ws : List Word) (x : Block) (r : Nat) : Block :=
  blockOf (mixColumns (shiftRows (subBytes (blockBytes x)))) ^^^ roundKey ws r

/-- `AES256_E(K, X)` (R220). -/
def aesEncrypt (k : BitVec 256) (x : Block) : Block :=
  let ws := expandKey k
  let s := ((List.range 13).map (· + 1)).foldl (fullRound ws) (x ^^^ roundKey ws 0)
  blockOf (shiftRows (subBytes (blockBytes s))) ^^^ roundKey ws 14

end Sys2Proof.Machine
end

