-- ==== Sys2Proof/Machine/Gcm.lean ====
section
/-! DEFINITION. GCM for a 12-byte IV, empty associated data and a 16-byte tag (48_crypto_primitives.md R222 to R228). -/

namespace Sys2Proof.Machine

/-- One step of `gfmul` (R223), with the accumulator `Z` and the multiple `V`: bit `i` counts from the left (R222). -/
def gfStep (x : Block) (zv : Block × Block) (i : Nat) : Block × Block :=
  (if x.getMsbD i then zv.1 ^^^ zv.2 else zv.1,
    if zv.2.getLsbD 0 then (zv.2 >>> 1) ^^^ (0xE1#128 <<< 120) else zv.2 >>> 1)

/-- The product in GF(2^128) (R223). -/
def gfmul (x y : Block) : Block := ((List.range 128).foldl (gfStep x) (0, y)).1

/-- `GHASH(H, D)` (R224), for whole blocks. A short last piece counts as the low bytes of a block: DESIGN CHOICE (log
entry 21). -/
def ghash (h : Block) (d : Bytes) : Block :=
  (chunks 16 d.length d).foldl (fun y piece => gfmul (y ^^^ blockOf piece) h) 0

/-- `inc32` (R225): the last four bytes count, and wrap. -/
def inc32 (b : Block) : Block := b.extractLsb' 32 96 ++ (b.extractLsb' 0 32 + 1#32)

/-- GCTR over at most `fuel` pieces of 16 bytes, the first under the counter block `cb` (R226). -/
def gctrPieces (k : BitVec 256) (cb : Block) (fuel : Nat) (x : Bytes) : Bytes :=
  match fuel with
  | 0 => []
  | n + 1 =>
    if x.isEmpty then []
    else xorBytes (x.take 16) (blockBytes (aesEncrypt k cb)) ++ gctrPieces k (inc32 cb) n (x.drop 16)

/-- `GCTR(K, ICB, X)` (R226). -/
def gctr (k : BitVec 256) (icb : Block) (x : Bytes) : Bytes := gctrPieces k icb x.length x

/-- `J0 = IV ‖ 00 00 00 01` (R227). -/
def counterZero (iv : BitVec 96) : Block := iv ++ 1#32

/-- The bytes GHASH runs over: the ciphertext, zeros to the block boundary, and the two bit lengths (R227). -/
def ghashInput (c : Bytes) : Bytes :=
  c ++ zeros ((16 - c.length % 16) % 16) ++ beBytes 8 0 ++ beBytes 8 (8 * c.length)

/-- The tag of a ciphertext: `S ⊕ AES256_E(K, J0)`, all 16 bytes (R227). -/
def gcmTag (k : BitVec 256) (iv : BitVec 96) (c : Bytes) : Bytes :=
  blockBytes (ghash (aesEncrypt k 0) (ghashInput c) ^^^ aesEncrypt k (counterZero iv))

/-- `GCM_AE(K, IV, P)`: the ciphertext and the tag (R227). -/
def gcmSeal (k : BitVec 256) (iv : BitVec 96) (p : Bytes) : Bytes × Bytes :=
  let c := gctr k (inc32 (counterZero iv)) p
  (c, gcmTag k iv c)

/-- `GCM_AD(K, IV, C, T)`: nothing when the tag differs, tested before any plaintext is returned (R228). -/
def gcmOpen (k : BitVec 256) (iv : BitVec 96) (c t : Bytes) : Option Bytes :=
  if gcmTag k iv c ≠ t then none else some (gctr k (inc32 (counterZero iv)) c)

end Sys2Proof.Machine
end

