-- ==== Sys2Proof/Config.lean ====
section
/-! DEFINITION. The parameters of the block as types (00_scope.md R8; 10_state.md R45; 42_header.md R151) and the
values the spec leaves open, as constants without a body. What makes a parameter legal is in WellFormed.lean. -/

namespace Sys2Proof

/-- The FIRMWARE map's entry for a field (10_state.md R45, member `fw`). -/
inductive FwEntry where
  | absent
  | none
  | convert
  deriving DecidableEq, Repr

/-- The kind of a field (10_state.md R45, member `kind`). -/
inductive FieldKind where
  /-- `FIXED(size)`. -/
  | fixed (size : Nat)
  /-- `LEN(size, target)`: the length sub-field of the variable field `target`. -/
  | len (size target : Nat)
  /-- `VAR(lenfield)`: a variable-length field, its length in the field `lenField`. -/
  | var (lenField : Nat)
  deriving DecidableEq, Repr

/-- A field descriptor: the five members of 10_state.md R45. No rule reads `name`. -/
structure FieldDesc where
  name : String
  kind : FieldKind
  prim : Nat
  fw : FwEntry
  magic : Option (List Nat)
  deriving DecidableEq, Repr

/-- A structure descriptor: its fields in wire order (R45, R120). -/
abbrev Descriptor := List FieldDesc

/-- `STRUCT_ROM` (R45): the known structure ids, each with its descriptor. An id that is not listed is unknown. -/
abbrev StructRom := List (BitVec 8 × Descriptor)

/-- One entry of the header field table (42_header.md R151). -/
structure HdrField where
  offset : Nat
  width : Nat
  deriving DecidableEq, Repr

/-- `HDR_TABLE` (R8, R151). -/
structure HdrTable where
  code : HdrField
  length : HdrField
  id : HdrField
  client : HdrField
  deriving DecidableEq, Repr

/-- `KDF_HASH` (R8, 43_kdf.md R167): SHA-384, the default, or another hash, known by a number only. -/
inductive KdfHash where
  | sha384
  | other (id : Nat)
  deriving DecidableEq, Repr

/-- The parameters of the block that R8 lets vary. The fixed ones (label width 27, context width 16, the context
string, key, IV and tag lengths) are in the meanings. -/
structure RawParams where
  ibufBytes : Nat
  obufBytes : Nat
  fsBytes : Nat
  secretMax : Nat
  hdr : HdrTable
  unknownCmdCode : Word
  structRom : StructRom
  kdfHash : KdfHash
  deriving DecidableEq, Repr

namespace Config

/-- The answers of the `RNG` oracle (R8, 44_gcm.md R189): the `k`-th draw is 12 bytes about which nothing is known.
A free value; DESIGN CHOICE as to its form (log entry 4). -/
opaque rngDraw : Nat → BitVec 96

/-- `STRUCT_ROM` is OPEN (R8): nothing is known of the table the platform chose.
DESIGN CHOICE (log entry 2). -/
opaque openStructRom : StructRom

/-- `UNKNOWN_CMD_CODE` is OPEN (R8): nothing is known of the number the platform chose.
DESIGN CHOICE (log entry 2). -/
opaque openUnknownCmdCode : Nat

/-- HMAC over a hash that is not SHA-384 (R167: a model should keep the hash a parameter): hash number, key and
message to the first 48 bytes of the digest, the only ones a command can show (`n` is at most 48, R168). DESIGN CHOICE (log
entry 13). -/
opaque otherHmac : Nat → Bytes → Bytes → BitVec 384

/-- The default header field table (42_header.md R151, log entry 3). -/
def defaultHdrTable : HdrTable where
  code := { offset := 0, width := 8 }
  length := { offset := 12, width := 11 }
  id := { offset := 24, width := 4 }
  client := { offset := 28, width := 4 }

end Config

end Sys2Proof
end

