-- ==== Sys2Proof/Syntax.lean ====
section
/-! DEFINITION. The command set (30_encoding.md R93): one constructor for each row of spec/opcode_table.json, its
operands already turned from bits into what they stand for (R88 to R92, R98). A reserved selector value (R95) cannot
be written: a word that carries one is no command. -/

namespace Sys2Proof

/-- The `ord` operand of CUR.RD16 and CUR.RD32 (R88). -/
inductive ReadOrder where
  /-- 0: the cursor's persistent order `CFG.CURLE`. -/
  | persistent
  /-- 1: big-endian for this read. -/
  | big
  /-- 2: little-endian for this read. -/
  | little
  deriving DecidableEq, Repr

/-- The `actor` operand (R90). -/
inductive Actor where
  /-- 0. -/
  | firmware
  /-- 1. -/
  | service
  deriving DecidableEq, Repr

/-- The `T` operand of HDR.VALID (R91). -/
inductive HdrOrder where
  /-- 0: the bytes are in service order (`parse`). -/
  | raw
  /-- 1: the bytes are in device order (`parseFromTransport`). -/
  | xport
  deriving DecidableEq, Repr

/-- The `slot` operand of KEY.RD (R91) and the three key slots (10_state.md R42). -/
inductive Slot where
  /-- 1. -/
  | pmk
  /-- 2. -/
  | sek
  /-- 3. -/
  | smk
  deriving DecidableEq, Repr

/-- The `src` operand of GKEY.LD (R91). -/
inductive KeySrc where
  /-- 0: IBUF. -/
  | ibuf
  /-- 1: the SEK slot. -/
  | sek
  deriving DecidableEq, Repr

/-- The 30 commands (R93). -/
inductive Instr where
  /-- NOP (R206). -/
  | nop
  /-- SRST (R207). -/
  | srst
  /-- KCLR (R208). -/
  | kclr
  /-- CUR.WRAP (R107). -/
  | curWrap
  /-- CUR.RD16 `ord` (R108). -/
  | curRd16 (ord : ReadOrder)
  /-- CUR.RD32 `ord` (R109). -/
  | curRd32 (ord : ReadOrder)
  /-- CUR.RDN `n` (R110). -/
  | curRdn (n : BitVec 16)
  /-- CUR.RDX `n` (R111). -/
  | curRdx (n : BitVec 16)
  /-- CUR.SKIP `n` (R112). -/
  | curSkip (n : BitVec 16)
  /-- CUR.SEEK `pos` (R113). -/
  | curSeek (pos : BitVec 16)
  /-- EMAP.GET `t`, `f`, `actor` (R122). -/
  | emapGet (t f : BitVec 8) (actor : Actor)
  /-- EMAP.SIZE `t`, `actor` (R123). -/
  | emapSize (t : BitVec 8) (actor : Actor)
  /-- ST.NEW `t` (R127). -/
  | stNew (t : BitVec 8)
  /-- ST.SETF `f` (R128). -/
  | stSetf (f : BitVec 8)
  /-- ST.GETF `f` (R129). -/
  | stGetf (f : BitVec 8)
  /-- ST.BUILD `actor` (R130). -/
  | stBuild (actor : Actor)
  /-- ST.PARSE `t`, `actor` (R139). -/
  | stParse (t : BitVec 8) (actor : Actor)
  /-- HDR.BUILD (R152). -/
  | hdrBuild
  /-- HDR.BUILDT (R154). -/
  | hdrBuildt
  /-- HDR.PARSE (R156). -/
  | hdrParse
  /-- HDR.PARSET (R158). -/
  | hdrParset
  /-- HDR.VALID `T` (R159). -/
  | hdrValid (order : HdrOrder)
  /-- KDF.DERIVE `n` (R170). -/
  | kdfDerive (n : BitVec 16)
  /-- KDF.PMK (R173). -/
  | kdfPmk
  /-- KDF.SEK (R174). -/
  | kdfSek
  /-- KDF.SMK (R175). -/
  | kdfSmk
  /-- KEY.RD `slot` (R177). -/
  | keyRd (slot : Slot)
  /-- GKEY.LD `src` (R186). -/
  | gkeyLd (src : KeySrc)
  /-- GCM.ENC (R190). -/
  | gcmEnc
  /-- GCM.DEC (R194). -/
  | gcmDec
  deriving DecidableEq, Repr

end Sys2Proof
end

