-- ==== Sys2Proof/WellFormed.lean ====
section
/-! DEFINITION. What is well formed: a structure descriptor (10_state.md R46), a header field table (42_header.md
R151), the parameters as a whole (00_scope.md R8), and a command word (30_encoding.md R94, R95). Every check is a
Bool. The parameters are carried together with the proof that they are legal, so that the premise of R46 and of
93_implementation_defined.md U15 need not be said again. -/

namespace Sys2Proof

/-! ### Structure descriptors (R46) -/

/-- R46 (d), with R45's "non-empty list": an allow-list stands on an integer field of at most 4 bytes only, and its
values fit the field. -/
def FieldDesc.magicOk (size : Nat) (x : FieldDesc) : Bool :=
  match x.magic with
  | none => true
  | some values => !values.isEmpty && decide (size ≤ 4) && decide (x.prim = size) &&
      values.all fun v => decide (v < 256 ^ size)

/-- R46 (b): the LEN field at index `f` and the VAR field at index `target` name each other, the VAR field later. -/
def Descriptor.targetOk (d : Descriptor) (f target : Nat) : Bool :=
  decide (f < target) && decide ((d[target]?).map FieldDesc.kind = some (FieldKind.var f))

/-- R46 (c): the field `lenField` before the VAR field at index `f` is the LEN field whose target is `f`. -/
def Descriptor.lenFieldOk (d : Descriptor) (f lenField : Nat) : Bool :=
  decide (lenField < f) &&
    match (d[lenField]?).map FieldDesc.kind with
    | some (.len _ target) => decide (target = f)
    | _ => false

/-- R45 and R46 (a) to (d) for the field descriptor `x` at index `f` of the descriptor `d`. -/
def FieldDesc.wf (d : Descriptor) (f : Nat) (x : FieldDesc) : Bool :=
  decide (1 ≤ x.prim) &&
    match x.kind with
    | .fixed size => decide (1 ≤ size) && decide (size % x.prim = 0) && x.magicOk size
    | .len size target => (decide (size = 2) || decide (size = 4)) && decide (x.prim = size) && d.targetOk f target &&
        decide (x.magic = none)
    | .var lenField => d.lenFieldOk f lenField && decide (x.prim = 1) && decide (x.fw ≠ .convert) &&
        decide (x.magic = none)

/-- The bytes a field takes for certain: its size, or none for a variable field (R46 (e)). -/
def FieldDesc.fixedSize (x : FieldDesc) : Nat :=
  match x.kind with
  | .fixed size => size
  | .len size _ => size
  | .var _ => 0

/-- R46: every field is well formed, there are at most 256 of them (R45), and (e) the certain bytes fit the field
store. -/
def Descriptor.wf (fsBytes : Nat) (d : Descriptor) : Bool :=
  decide (d.length ≤ 256) && (d.zipIdx.all fun x => x.1.wf d x.2) &&
    decide ((d.map FieldDesc.fixedSize).sum ≤ fsBytes)

/-- R46: `STRUCT_ROM` holds only well-formed descriptors. -/
def StructRom.wf (fsBytes : Nat) (rom : StructRom) : Bool :=
  rom.all fun e => Descriptor.wf fsBytes e.2

/-! ### The header field table (R8, R151) -/

/-- A field lies inside the 32 bits and is at least one bit wide. -/
def HdrField.wf (x : HdrField) : Bool := decide (1 ≤ x.width) && decide (x.offset + x.width ≤ 32)

/-- Two fields share no bit. -/
def HdrField.disjoint (x y : HdrField) : Bool :=
  decide (x.offset + x.width ≤ y.offset) || decide (y.offset + y.width ≤ x.offset)

/-- R8: the fields are disjoint, inside 32 bits, of width at least 1. -/
def HdrTable.wf (h : HdrTable) : Bool :=
  h.code.wf && h.length.wf && h.id.wf && h.client.wf &&
    h.code.disjoint h.length && h.code.disjoint h.id && h.code.disjoint h.client &&
    h.length.disjoint h.id && h.length.disjoint h.client && h.id.disjoint h.client

/-! ### The parameters (R8) -/

/-- The constraints of R8's table. -/
def RawParams.wf (p : RawParams) : Bool :=
  decide (64 ≤ p.ibufBytes) && decide (p.ibufBytes ≤ 65535) &&
    decide (64 ≤ p.obufBytes) && decide (p.obufBytes ≤ 65535) &&
    decide (64 ≤ p.fsBytes) && decide (p.fsBytes ≤ 65535) &&
    decide (48 ≤ p.secretMax) && decide (p.secretMax ≤ 255) &&
    p.hdr.wf && decide (p.unknownCmdCode ≠ 0#32) && decide (p.unknownCmdCode.toNat < 2 ^ p.hdr.code.width) &&
    StructRom.wf p.fsBytes p.structRom

/-- Legal parameters: R46's and R8's constraints are a premise on them (U15), carried as a proof. DESIGN CHOICE (log
entries 1 and 16). -/
structure Params extends RawParams where
  legal : toRawParams.wf = true
  deriving DecidableEq, Repr

namespace Config

/-- The table the platform chose, taken as empty should it not be well formed (R46: it holds only well-formed
descriptors). Every well-formed table remains possible. -/
def structRom : StructRom := if StructRom.wf 4096 openStructRom then openStructRom else []

/-- The reserved status code the platform chose: nonzero and below 2^8, the default width of CODE (R8). Every such
code remains possible. -/
def unknownCmdCode : Word := BitVec.ofNat 32 (1 + openUnknownCmdCode % 255)

/-- R8: the default of every parameter that has one, an open constant for the two that have none. DESIGN CHOICE (log
entries 2 and 3). -/
def rawParams : RawParams where
  ibufBytes := 4096
  obufBytes := 4128
  fsBytes := 4096
  secretMax := 128
  hdr := defaultHdrTable
  unknownCmdCode := unknownCmdCode
  structRom := structRom
  kdfHash := .sha384

theorem structRom_wf : StructRom.wf 4096 structRom = true := by
  unfold structRom
  split
  · assumption
  · rfl

theorem unknownCmdCode_toNat : unknownCmdCode.toNat = 1 + openUnknownCmdCode % 255 := by
  have h : openUnknownCmdCode % 255 < 255 := Nat.mod_lt _ (by decide)
  simp only [unknownCmdCode, BitVec.toNat_ofNat]
  omega

theorem rawParams_wf : rawParams.wf = true := by
  have h : openUnknownCmdCode % 255 < 255 := Nat.mod_lt _ (by decide)
  have hn := unknownCmdCode_toNat
  have h0 : unknownCmdCode ≠ 0#32 := fun e => by rw [e] at hn; simp at hn; omega
  have h1 : unknownCmdCode.toNat < 2 ^ 8 := by omega
  have ht : HdrTable.wf defaultHdrTable = true := by decide
  have hw : defaultHdrTable.code.width = 8 := rfl
  simp [RawParams.wf, rawParams, ht, hw, h0, structRom_wf]
  omega

/-- The parameters of the block as it comes out of reset. -/
def params : Params := { toRawParams := rawParams, legal := rawParams_wf }

end Config

/-! ### Command words (R94, R95) -/

/-- One row of spec/opcode_table.json: a mnemonic and the `mask`/`match` pair of R94. -/
structure OpcodeRow where
  mnemonic : String
  matchBits : Word
  mask : Word
  deriving DecidableEq, Repr

/-- R94: the row a word satisfies. -/
def OpcodeRow.selects (r : OpcodeRow) (w : Word) : Bool := decide (w &&& r.mask = r.matchBits)

/-- The rows of format Z (R87): no operand, every bit fixed. -/
def opcodeRowsZ : List OpcodeRow :=
  [⟨"NOP", 0x00000000, 0xFFFFFFFF⟩, ⟨"SRST", 0x01000000, 0xFFFFFFFF⟩, ⟨"KCLR", 0x02000000, 0xFFFFFFFF⟩,
   ⟨"CUR.WRAP", 0x10000000, 0xFFFFFFFF⟩, ⟨"HDR.BUILD", 0x30000000, 0xFFFFFFFF⟩,
   ⟨"HDR.BUILDT", 0x31000000, 0xFFFFFFFF⟩, ⟨"HDR.PARSE", 0x32000000, 0xFFFFFFFF⟩,
   ⟨"HDR.PARSET", 0x33000000, 0xFFFFFFFF⟩, ⟨"KDF.PMK", 0x41000000, 0xFFFFFFFF⟩,
   ⟨"KDF.SEK", 0x42000000, 0xFFFFFFFF⟩, ⟨"KDF.SMK", 0x43000000, 0xFFFFFFFF⟩,
   ⟨"GCM.ENC", 0x51000000, 0xFFFFFFFF⟩, ⟨"GCM.DEC", 0x52000000, 0xFFFFFFFF⟩]

/-- The rows of format O (R88): `ord` in bits 17:16. -/
def opcodeRowsO : List OpcodeRow :=
  [⟨"CUR.RD16", 0x11000000, 0xFFFCFFFF⟩, ⟨"CUR.RD32", 0x12000000, 0xFFFCFFFF⟩]

/-- The rows of format N (R89): an immediate in bits 15:0. -/
def opcodeRowsN : List OpcodeRow :=
  [⟨"CUR.RDN", 0x13000000, 0xFFFF0000⟩, ⟨"CUR.RDX", 0x14000000, 0xFFFF0000⟩,
   ⟨"CUR.SKIP", 0x15000000, 0xFFFF0000⟩, ⟨"CUR.SEEK", 0x16000000, 0xFFFF0000⟩,
   ⟨"KDF.DERIVE", 0x40000000, 0xFFFF0000⟩]

/-- The rows of format S (R90): a subset of `t`, `f` and `actor`. -/
def opcodeRowsS : List OpcodeRow :=
  [⟨"EMAP.GET", 0x20000000, 0xFF0000FE⟩, ⟨"EMAP.SIZE", 0x21000000, 0xFF00FFFE⟩,
   ⟨"ST.NEW", 0x22000000, 0xFF00FFFF⟩, ⟨"ST.SETF", 0x23000000, 0xFFFF00FF⟩,
   ⟨"ST.GETF", 0x24000000, 0xFFFF00FF⟩, ⟨"ST.BUILD", 0x25000000, 0xFFFFFFFE⟩,
   ⟨"ST.PARSE", 0x26000000, 0xFF00FFFE⟩]

/-- The rows of format K (R91): a selector in the low bits. -/
def opcodeRowsK : List OpcodeRow :=
  [⟨"HDR.VALID", 0x34000000, 0xFFFFFFFE⟩, ⟨"KEY.RD", 0x44000000, 0xFFFFFFFC⟩,
   ⟨"GKEY.LD", 0x50000000, 0xFFFFFFFC⟩]

/-- The 30 rows of spec/opcode_table.json. -/
def opcodeTable : List OpcodeRow := opcodeRowsZ ++ opcodeRowsO ++ opcodeRowsN ++ opcodeRowsS ++ opcodeRowsK

/-- R95: the word's `OPC` is one of the 30. -/
def knownOpcode (w : Word) : Bool :=
  opcodeTable.any fun r => decide (w.extractLsb' 24 8 = r.matchBits.extractLsb' 24 8)

/-- R95: every bit the command's format requires to be zero is zero, that is, the word satisfies a row's mask (R94). -/
def selectsRow (w : Word) : Bool := opcodeTable.any fun r => r.selects w

/-- R95: a reserved selector value: `ord` = 3 of CUR.RD16 and CUR.RD32, `slot` = 0 of KEY.RD, `src` = 2 or 3 of
GKEY.LD. -/
def reservedSelector (w : Word) : Bool :=
  ((decide (w.extractLsb' 24 8 = 0x11) || decide (w.extractLsb' 24 8 = 0x12)) &&
      decide (w.extractLsb' 16 2 = 3)) ||
    (decide (w.extractLsb' 24 8 = 0x44) && decide (w.extractLsb' 0 2 = 0)) ||
    (decide (w.extractLsb' 24 8 = 0x50) && w.getLsbD 1)

/-- R94, R95: a word is a command exactly when it satisfies a row of the table and carries no reserved selector. -/
def legalWord (w : Word) : Bool := selectsRow w && !reservedSelector w

end Sys2Proof
end

