-- ==== Sys2Proof/Decode.lean ====
section
/-! DEFINITION. The decoder (30_encoding.md R85 to R95), total on every 32-bit word and rejecting by name, and after it
the encoder, both written from the formats Z, O, N, S and K of R87 to R91. -/

namespace Sys2Proof

/-- Why a word is illegal (R95). The block answers all three with the one fault `E_ILLCMD`. -/
inductive DecodeError where
  /-- `OPC` is not one of the 30. -/
  | unknownOpcode
  /-- A bit the format requires to be zero is one. -/
  | mustBeZero
  /-- `ord` = 3, `slot` = 0, or `src` = 2 or 3. -/
  | reservedSelector
  deriving DecidableEq, Repr

/-! ### The fields of a word (R86) -/

/-- `OPC`, bits 31:24. -/
def opcOf (w : Word) : BitVec 8 := w.extractLsb' 24 8

/-- `A`, bits 23:16. -/
def fieldA (w : Word) : BitVec 8 := w.extractLsb' 16 8

/-- `B`, bits 15:8. -/
def fieldB (w : Word) : BitVec 8 := w.extractLsb' 8 8

/-- `C`, bits 7:0. -/
def fieldC (w : Word) : BitVec 8 := w.extractLsb' 0 8

/-- `N`, bits 15:0. -/
def fieldN (w : Word) : BitVec 16 := w.extractLsb' 0 16

/-! ### Selectors from their bits (R88, R90, R91, R98) -/

/-- `ord` = bits 17:16; 3 is reserved. -/
def readOrderOf (b : BitVec 2) : Except DecodeError ReadOrder :=
  match b with
  | 0#2 => .ok .persistent
  | 1#2 => .ok .big
  | 2#2 => .ok .little
  | _ => .error .reservedSelector

/-- `actor` = bit 0. -/
def actorOf (b : Bool) : Actor := if b then .service else .firmware

/-- `T` = bit 0. -/
def hdrOrderOf (b : Bool) : HdrOrder := if b then .xport else .raw

/-- `slot` = bits 1:0; 0 is reserved. -/
def slotOf (b : BitVec 2) : Except DecodeError Slot :=
  match b with
  | 1#2 => .ok .pmk
  | 2#2 => .ok .sek
  | 3#2 => .ok .smk
  | _ => .error .reservedSelector

/-- `src` = bits 1:0; 2 and 3 are reserved. -/
def keySrcOf (b : BitVec 2) : Except DecodeError KeySrc :=
  match b with
  | 0#2 => .ok .ibuf
  | 1#2 => .ok .sek
  | _ => .error .reservedSelector

/-! ### One decoder for each format -/

/-- The command, if the bits that must be zero are. -/
def requireZero (zero : Bool) (r : Except DecodeError Instr) : Except DecodeError Instr :=
  if zero then r else .error .mustBeZero

/-- Format Z (R87): `A = B = C = 0`. -/
def decodeZ (w : Word) (i : Instr) : Except DecodeError Instr :=
  requireZero (fieldA w = 0 && fieldN w = 0) (.ok i)

/-- Format O (R88): `A[7:2] = 0` and `N = 0`. -/
def decodeO (w : Word) (mk : ReadOrder → Instr) : Except DecodeError Instr :=
  requireZero (w.extractLsb' 18 6 = 0 && fieldN w = 0) ((readOrderOf (w.extractLsb' 16 2)).map mk)

/-- Format N (R89): `A = 0`. -/
def decodeN (w : Word) (mk : BitVec 16 → Instr) : Except DecodeError Instr :=
  requireZero (fieldA w = 0) (.ok (mk (fieldN w)))

/-- Format S (R90): the command says which of `t` and `f` must be zero; bits 7:1 always must. -/
def decodeS (w : Word) (zero : Bool) (i : Instr) : Except DecodeError Instr :=
  requireZero (zero && w.extractLsb' 1 7 = 0) (.ok i)

/-- Format K (R91) with a two-bit selector: `A = B = 0` and `C[7:2] = 0`. -/
def decodeK {α : Type} (w : Word) (sel : Except DecodeError α) (mk : α → Instr) : Except DecodeError Instr :=
  requireZero (fieldA w = 0 && fieldB w = 0 && w.extractLsb' 2 6 = 0) (sel.map mk)

/-- The decoder (R94): every 32-bit word is either exactly one command with its operands or illegal. -/
def decode (w : Word) : Except DecodeError Instr :=
  match opcOf w with
  | 0x00#8 => decodeZ w .nop
  | 0x01#8 => decodeZ w .srst
  | 0x02#8 => decodeZ w .kclr
  | 0x10#8 => decodeZ w .curWrap
  | 0x11#8 => decodeO w .curRd16
  | 0x12#8 => decodeO w .curRd32
  | 0x13#8 => decodeN w .curRdn
  | 0x14#8 => decodeN w .curRdx
  | 0x15#8 => decodeN w .curSkip
  | 0x16#8 => decodeN w .curSeek
  | 0x20#8 => decodeS w true (.emapGet (fieldA w) (fieldB w) (actorOf (w.getLsbD 0)))
  | 0x21#8 => decodeS w (fieldB w = 0) (.emapSize (fieldA w) (actorOf (w.getLsbD 0)))
  | 0x22#8 => decodeS w (fieldB w = 0 && !w.getLsbD 0) (.stNew (fieldA w))
  | 0x23#8 => decodeS w (fieldA w = 0 && !w.getLsbD 0) (.stSetf (fieldB w))
  | 0x24#8 => decodeS w (fieldA w = 0 && !w.getLsbD 0) (.stGetf (fieldB w))
  | 0x25#8 => decodeS w (fieldA w = 0 && fieldB w = 0) (.stBuild (actorOf (w.getLsbD 0)))
  | 0x26#8 => decodeS w (fieldB w = 0) (.stParse (fieldA w) (actorOf (w.getLsbD 0)))
  | 0x30#8 => decodeZ w .hdrBuild
  | 0x31#8 => decodeZ w .hdrBuildt
  | 0x32#8 => decodeZ w .hdrParse
  | 0x33#8 => decodeZ w .hdrParset
  | 0x34#8 => requireZero (fieldA w = 0 && fieldB w = 0 && w.extractLsb' 1 7 = 0)
      (.ok (.hdrValid (hdrOrderOf (w.getLsbD 0))))
  | 0x40#8 => decodeN w .kdfDerive
  | 0x41#8 => decodeZ w .kdfPmk
  | 0x42#8 => decodeZ w .kdfSek
  | 0x43#8 => decodeZ w .kdfSmk
  | 0x44#8 => decodeK w (slotOf (w.extractLsb' 0 2)) .keyRd
  | 0x50#8 => decodeK w (keySrcOf (w.extractLsb' 0 2)) .gkeyLd
  | 0x51#8 => decodeZ w .gcmEnc
  | 0x52#8 => decodeZ w .gcmDec
  | _ => .error .unknownOpcode

/-- The host's question about one row of the opcode table: the command in a word whose low `nbits` bits are those of
`w` and whose other bits are zero. A command word is an integer written to `CMD` (20_memory.md R63, R69): no byte
order lies between it and the decoder, and no command is longer than 32 bits (R85). -/
def decodeTableWord (nbits w : Nat) : Option Instr :=
  if w % 2 ^ nbits < 2 ^ 32 then (decode (BitVec.ofNat 32 (w % 2 ^ nbits))).toOption else none

/-! ### The encoder -/

/-- A word from its four byte-wide fields (R86). -/
def wordOf (opc a b c : BitVec 8) : Word := opc ++ a ++ b ++ c

/-- Format N (R89): `OPC << 24 | n`. -/
def wordN (opc : BitVec 8) (n : BitVec 16) : Word := opc ++ 0#8 ++ n

/-- `ord` as bits (R88). -/
def readOrderBits (o : ReadOrder) : BitVec 8 :=
  match o with
  | .persistent => 0
  | .big => 1
  | .little => 2

/-- `actor` as bits (R90). -/
def actorBits (a : Actor) : BitVec 8 :=
  match a with
  | .firmware => 0
  | .service => 1

/-- `T` as bits (R91). -/
def hdrOrderBits (o : HdrOrder) : BitVec 8 :=
  match o with
  | .raw => 0
  | .xport => 1

/-- `slot` as bits (R91): also the slot's number (10_state.md R42). -/
def slotBits (s : Slot) : BitVec 8 :=
  match s with
  | .pmk => 1
  | .sek => 2
  | .smk => 3

/-- `src` as bits (R91). -/
def keySrcBits (s : KeySrc) : BitVec 8 :=
  match s with
  | .ibuf => 0
  | .sek => 1

/-- The command word of a command (R87 to R91). -/
def encode (i : Instr) : Word :=
  match i with
  | .nop => wordOf 0x00 0 0 0
  | .srst => wordOf 0x01 0 0 0
  | .kclr => wordOf 0x02 0 0 0
  | .curWrap => wordOf 0x10 0 0 0
  | .curRd16 ord => wordOf 0x11 (readOrderBits ord) 0 0
  | .curRd32 ord => wordOf 0x12 (readOrderBits ord) 0 0
  | .curRdn n => wordN 0x13 n
  | .curRdx n => wordN 0x14 n
  | .curSkip n => wordN 0x15 n
  | .curSeek pos => wordN 0x16 pos
  | .emapGet t f actor => wordOf 0x20 t f (actorBits actor)
  | .emapSize t actor => wordOf 0x21 t 0 (actorBits actor)
  | .stNew t => wordOf 0x22 t 0 0
  | .stSetf f => wordOf 0x23 0 f 0
  | .stGetf f => wordOf 0x24 0 f 0
  | .stBuild actor => wordOf 0x25 0 0 (actorBits actor)
  | .stParse t actor => wordOf 0x26 t 0 (actorBits actor)
  | .hdrBuild => wordOf 0x30 0 0 0
  | .hdrBuildt => wordOf 0x31 0 0 0
  | .hdrParse => wordOf 0x32 0 0 0
  | .hdrParset => wordOf 0x33 0 0 0
  | .hdrValid order => wordOf 0x34 0 0 (hdrOrderBits order)
  | .kdfDerive n => wordN 0x40 n
  | .kdfPmk => wordOf 0x41 0 0 0
  | .kdfSek => wordOf 0x42 0 0 0
  | .kdfSmk => wordOf 0x43 0 0 0
  | .keyRd slot => wordOf 0x44 0 0 (slotBits slot)
  | .gkeyLd src => wordOf 0x50 0 0 (keySrcBits src)
  | .gcmEnc => wordOf 0x51 0 0 0
  | .gcmDec => wordOf 0x52 0 0 0

end Sys2Proof
end

