-- ==== Sys2Proof/Machine/State.lean ====
section
/-! DEFINITION. The state of the block (10_state.md R20 to R51) as plain data, the environment it runs in (the host's
transactions, the `RNG` oracle, the parameters), and the state after reset. -/

namespace Sys2Proof.Machine

/-! ### Memory -/

/-- A byte buffer: (offset, byte) cells. Canonical form: offsets strictly rising, no cell of value 0x00. A byte that is
not listed reads as 0x00, the reset value of every byte of every buffer (R38 to R41, R51). DEDUCED (log entry 10). -/
abbrev Memory := List Host.Cell

/-! ### The host port (20_memory.md) -/

/-- The 20 registers of the address map (R61), in the order of their addresses. -/
inductive Reg where
  | cmd | status | einfo0 | einfo1 | einfo2 | esticky | cfg | kstat | ilen | olen
  | pos | limit | res | slen | llen | ssel | hcode | hlen | hclient | hid
  deriving DecidableEq, Repr

/-- The four buffers that have a window on the port (R61). -/
inductive Buffer where
  | ibuf | obuf | secret | lbuf
  deriving DecidableEq, Repr

/-- What the outside can do to the block: the bus transactions `MemRead(addr, n)` and `MemWrite(addr, n, v)` with
`n` 4 or 1 (R62), and a pulse of the reset input (70_reset_and_hazards.md R280). -/
inductive HostAction where
  /-- `MemRead(addr, 4)`. -/
  | read32 (addr : BitVec 20)
  /-- `MemWrite(addr, 4, v)`. -/
  | write32 (addr : BitVec 20) (v : Word)
  /-- `MemRead(addr, 1)`. -/
  | read8 (addr : BitVec 20)
  /-- `MemWrite(addr, 1, v)`. -/
  | write8 (addr : BitVec 20) (v : Byte)
  /-- The reset input asserted and released. DESIGN CHOICE (log entry 17). -/
  | reset
  deriving DecidableEq, Repr

/-- What the port last gave the host (R62). A bus error is the refusal `Refusal.busError`. -/
inductive Answer where
  /-- No transaction has completed since reset. -/
  | idle
  /-- "done", without data. -/
  | done
  /-- "done", with the data of a read: a register's word, or a buffer's byte with upper bits zero. -/
  | data (v : Word)
  deriving DecidableEq, Repr

/-! ### Why a step can stop -/

/-- The machine never stops with a fault: a command that fails completes with a code in `STATUS` and the block goes on
(60_exceptions.md R250, R251), so this type has no constructor. DEDUCED (log entry 8). -/
inductive Fault where
  deriving DecidableEq, Repr

/-- Why the model does not continue a run. -/
inductive Refusal where
  /-- Raised by no arm of this model: a command without a meaning. Safe. -/
  | notModelled (mnemonic : String)
  /-- Raised by the host port: a transaction that is misaligned, of the wrong width, or to an unmapped address ends in
  a bus error, changes nothing, and the model does not continue the run (20_memory.md R65, U9 of
  93_implementation_defined.md). DEDUCED (log entry 8). Safe. -/
  | busError
  deriving DecidableEq, Repr

/-! ### The state -/

/-- The whole state. The registers, buffers, keys and field store are the spec's; the last five fields are the model's
own: the parameters, which the spec takes as arguments, and the environment. -/
structure State where
  /-- `STATUS` (R25): `ERR` in bits 7:0. -/
  status : Word
  /-- `EINFO0` (R26). -/
  einfo0 : Word
  /-- `EINFO1` (R26). -/
  einfo1 : Word
  /-- `EINFO2` (R26). -/
  einfo2 : Word
  /-- `ESTICKY` (R27). -/
  esticky : Word
  /-- `CFG` (R28): `PROV` 1:0, `ORD` 3:2, `CURLE` 8. -/
  cfg : Word
  /-- `KSTAT` (R29): `PMKV` 0, `SEKV` 1, `SMKV` 2, `GKEYV` 3. -/
  kstat : Word
  /-- `ILEN` (R30). -/
  ilen : Word
  /-- `OLEN` (R31). -/
  olen : Word
  /-- `POS` (R32). -/
  pos : Word
  /-- `LIMIT` (R32). -/
  limit : Word
  /-- `RES` (R33). -/
  res : Word
  /-- `SLEN` (R34). -/
  slen : Word
  /-- `LLEN` (R35). -/
  llen : Word
  /-- `SSEL` (R36): `T` in bits 7:0, `OPEN` in bit 8. -/
  ssel : Word
  /-- `HCODE` (R37). -/
  hcode : Word
  /-- `HLEN` (R37). -/
  hlen : Word
  /-- `HCLIENT` (R37). -/
  hclient : Word
  /-- `HID` (R37). -/
  hid : Word
  /-- IBUF (R38). -/
  ibuf : Memory
  /-- OBUF (R39); the port shows it below `OLEN` only. -/
  obuf : Memory
  /-- SECRET (R40). -/
  secret : Memory
  /-- LBUF (R41). -/
  lbuf : Memory
  /-- The `PMK` slot, 48 bytes, the first the most significant (R42). DESIGN CHOICE (log entry 14). -/
  pmk : BitVec 384
  /-- The `SEK` slot, 32 bytes, the first the most significant (R42). -/
  sek : BitVec 256
  /-- The `SMK` slot, 32 bytes, the first the most significant (R42). -/
  smk : BitVec 256
  /-- `GKEY`, 32 bytes, the first the most significant (R43). -/
  gkey : BitVec 256
  /-- The field store: `FS[f]` at index `f`; nothing when no builder is open (R44). -/
  fs : List Bytes
  /-- The parameters (00_scope.md R8): fixed for the life of the block (R19, R281). DESIGN CHOICE (log entry 1). -/
  params : Params
  /-- The host's actions still to come, the next one first (R18: a program is a list of host actions). DESIGN CHOICE
  (log entry 5). -/
  pending : List HostAction
  /-- What the port answered to the last action. DESIGN CHOICE (log entry 6). -/
  answer : Answer
  /-- `RNG` answers the environment has already fixed, the next one first; beyond them the oracle is free. DESIGN
  CHOICE (log entry 4). -/
  rngTape : List (BitVec 96)
  /-- How many draws have been made. DESIGN CHOICE (log entry 4). -/
  rngCount : Nat
  deriving DecidableEq, Repr

/-- The state after reset (R51), a function of the parameters only (R280), in an environment where nothing is pending
and nothing has been drawn (the values of the model's own fields: DESIGN CHOICE, log entries 3 to 6). -/
def State.resetWith (p : Params) : State where
  status := 0
  einfo0 := 0
  einfo1 := 0
  einfo2 := 0
  esticky := 0
  cfg := 0
  kstat := 0
  ilen := 0
  olen := 0
  pos := 0
  limit := 0
  res := 0
  slen := 0
  llen := 0
  ssel := 0
  hcode := 0
  hlen := 0
  hclient := 0
  hid := 0
  ibuf := []
  obuf := []
  secret := []
  lbuf := []
  pmk := 0
  sek := 0
  smk := 0
  gkey := 0
  fs := []
  params := p
  pending := []
  answer := .idle
  rngTape := []
  rngCount := 0

/-- The machine right after reset (R51, R280). -/
def State.reset : State := State.resetWith Config.params

end Sys2Proof.Machine
end

