-- ==== Sys2Proof/Machine/Flags.lean ====
section
/-! DEFINITION. The status and mode bits. The block has no condition codes (10_state.md R23); its bits are those of
`STATUS`, `ESTICKY`, `CFG`, `KSTAT` and `SSEL` (R25 to R29, R36). -/

namespace Sys2Proof.Machine

/-! ### `CFG` (R28) -/

/-- `CFG.PROV`: 0 not configured, 1 the built-in engine. -/
def State.prov (s : State) : BitVec 2 := s.cfg.extractLsb' 0 2

/-- `CFG.ORD`: 0 not configured, 1 big-endian, 2 little-endian. -/
def State.ord (s : State) : BitVec 2 := s.cfg.extractLsb' 2 2

/-- `CFG.CURLE`: the cursor's persistent order, true for little-endian. -/
def State.curle (s : State) : Bool := s.cfg.getLsbD 8

/-- What a host write of `w` leaves in `CFG` (R28): a reserved `PROV` or `ORD` is stored as 0, reserved bits are
ignored. -/
def cfgStored (w : Word) : Word :=
  let prov : BitVec 2 := if w.extractLsb' 0 2 = 1#2 then 1#2 else 0#2
  let ord : BitVec 2 := if w.extractLsb' 2 2 = 3#2 then 0#2 else w.extractLsb' 2 2
  let curle : BitVec 1 := w.extractLsb' 8 1
  0#23 ++ curle ++ 0#4 ++ ord ++ prov

/-! ### `KSTAT` (R29) -/

/-- The bit of `KSTAT` that says the slot holds a derived key. -/
def slotBit (k : Slot) : Nat :=
  match k with
  | .pmk => 0
  | .sek => 1
  | .smk => 2

/-- The slot's valid bit. -/
def State.slotValid (s : State) (k : Slot) : Bool := s.kstat.getLsbD (slotBit k)

/-- `KSTAT.GKEYV`. -/
def State.gkeyValid (s : State) : Bool := s.kstat.getLsbD 3

/-- A word with one bit set. -/
def setBit (w : Word) (k : Nat) : Word := w ||| (1#32 <<< k)

/-! ### `SSEL` (R36) -/

/-- `SSEL.OPEN`. -/
def State.builderOpen (s : State) : Bool := s.ssel.getLsbD 8

/-- `SSEL.T`. -/
def State.builderId (s : State) : BitVec 8 := s.ssel.extractLsb' 0 8

/-- `SSEL` with `OPEN` = 1 and `T` = `t`. -/
def sselOpen (t : BitVec 8) : Word := 0#23 ++ 1#1 ++ t

/-! ### `STATUS.ERR` (R25) and the fault codes (60_exceptions.md R246) -/

/-- `STATUS.ERR`. -/
def State.err (s : State) : BitVec 8 := s.status.extractLsb' 0 8

/-- The fault kinds of R246. -/
inductive FaultCode where
  | underrun | lenMismatch | invPos | fieldLen | parse | struct | hdr | unkCmd | cmdFail | kdf
  | decrypt | notConf | illCmd | badArg | keyState | capacity
  deriving DecidableEq, Repr

/-- The code: the value of `STATUS.ERR` and the bit number in `ESTICKY` (R246). -/
def FaultCode.code (c : FaultCode) : Nat :=
  match c with
  | .underrun => 1
  | .lenMismatch => 2
  | .invPos => 3
  | .fieldLen => 4
  | .parse => 5
  | .struct => 6
  | .hdr => 7
  | .unkCmd => 8
  | .cmdFail => 9
  | .kdf => 10
  | .decrypt => 11
  | .notConf => 12
  | .illCmd => 13
  | .badArg => 14
  | .keyState => 15
  | .capacity => 16

end Sys2Proof.Machine
end

