-- ==== Sys2Proof/Machine/Ops.lean ====
section
/-! DEFINITION. The shared operations: a buffer's bytes, OK completion and fault entry (60_exceptions.md R249, R250),
the reset of the block (10_state.md R51), the draw of an IV (44_gcm.md R189). -/

namespace Sys2Proof.Machine

/-! ### Buffers -/

/-- The canonical form: offsets strictly rising, no cell that holds what an unlisted byte reads as. -/
abbrev Memory.wf (m : Memory) : Prop := m.Pairwise (fun x y => x.1 < y.1) ∧ ∀ c ∈ m, c.2 ≠ 0

/-- The byte at an offset; a byte that is not listed is 0x00. -/
def Memory.read (m : Memory) (a : Nat) : Byte :=
  match m with
  | [] => 0
  | c :: rest => if c.1 = a then c.2 else Memory.read rest a

/-- A cell put in its place among rising offsets. -/
def Memory.insert (m : Memory) (a : Nat) (b : Byte) : Memory :=
  match m with
  | [] => [(a, b)]
  | c :: rest => if a < c.1 then (a, b) :: c :: rest else c :: Memory.insert rest a b

/-- The memory without a cell at the offset. -/
def Memory.erase (m : Memory) (a : Nat) : Memory := m.filter fun c => c.1 ≠ a

/-- One byte written; the value 0x00 removes the cell. -/
def Memory.write (m : Memory) (a : Nat) (b : Byte) : Memory :=
  if b = 0 then m.erase a else (m.erase a).insert a b

/-- `X[a..a+|s|) <- s`. -/
def Memory.writeBytes (m : Memory) (a : Nat) (s : Bytes) : Memory :=
  match s with
  | [] => m
  | b :: rest => Memory.writeBytes (m.write a b) (a + 1) rest

/-- `X[a..a+n)`. -/
def Memory.readBytes (m : Memory) (a n : Nat) : Bytes := (List.range n).map fun i => m.read (a + i)

/-! ### How a command ends -/

/-- How a command's pseudocode ends: at its end, having called `OUT(out)` (empty if it did not) and assigned the scalar
`res` (0 if it did not); or at a `raise`. -/
inductive Ending where
  /-- The end, with the state the command's own writes have made. -/
  | ok (s : State) (out : Bytes) (res : Word)
  /-- `raise E(i0, i1, i2)`. -/
  | raise (c : FaultCode) (i0 i1 i2 : Nat)
  deriving DecidableEq, Repr

/-- OK completion (R249), after the command's own writes. OBUF at and above `|out|` keeps what it held, which the port
does not show (10_state.md R39). DESIGN CHOICE (log entry 11). -/
def State.okCompletion (s : State) (out : Bytes) (res : Word) : State :=
  { s with
    status := 0, einfo0 := 0, einfo1 := 0, einfo2 := 0
    obuf := s.obuf.writeBytes 0 out
    olen := BitVec.ofNat 32 out.length
    res := res }

/-- Fault entry (R250): the one way an exception is taken. Nothing is saved and control goes nowhere, so there is no
return from it (R251): the next command runs normally whatever `STATUS` holds. -/
def State.faultEntry (s : State) (c : FaultCode) (i0 i1 i2 : Nat) : State :=
  { s with
    status := BitVec.ofNat 32 c.code
    einfo0 := BitVec.ofNat 32 i0, einfo1 := BitVec.ofNat 32 i1, einfo2 := BitVec.ofNat 32 i2
    esticky := setBit s.esticky c.code
    olen := 0
    res := 0 }

/-- A command run from `s` has ended: what a faulting command wrote is discarded (R250). -/
def State.complete (s : State) (e : Ending) : State :=
  match e with
  | .ok t out res => t.okCompletion out res
  | .raise c i0 i1 i2 => s.faultEntry c i0 i1 i2

/-- What every meaning answers: the command has completed (R245: it ends OK or with exactly one fault). -/
def finish (s : State) (e : Ending) : Host.Outcome State Fault Refusal := .next (s.complete e)

/-- The command wrote what `t` holds, and neither called `OUT` nor assigned `RES`. -/
def done (t : State) : Ending := .ok t [] 0

/-! ### Reset, and what reset does not touch -/

/-- Every piece of the block's state gets its reset value (R51, R280). The parameters (R281) and the environment, that
is the host's remaining actions and the `RNG`, are not the block's state and stay. DEDUCED (log entry 12). -/
def State.resetBlock (s : State) : State :=
  { State.resetWith s.params with
    pending := s.pending, answer := s.answer, rngTape := s.rngTape, rngCount := s.rngCount }

/-! ### The `RNG` oracle (00_scope.md R8, R17; 44_gcm.md R189) -/

/-- The 12 bytes the next draw gives: a free value (log entry 4). -/
def State.nextDraw (s : State) : BitVec 96 := s.rngTape.headD (Config.rngDraw s.rngCount)

/-- The environment after one draw. -/
def State.afterDraw (s : State) : State := { s with rngTape := s.rngTape.tail, rngCount := s.rngCount + 1 }

end Sys2Proof.Machine
end

