-- ==== Sys2Proof/Machine/Operands.lean ====
section
/-! DEFINITION. Where a command's operands come from (30_encoding.md R102): the input `IBUF[0..ILEN)`, the cursor, the
secret, the label, the key slots, and the descriptor of a structure. -/

namespace Sys2Proof.Machine

/-- The input byte sequence `IBUF[0..ILEN)` (10_state.md R30). -/
def State.input (s : State) : Bytes := s.ibuf.readBytes 0 s.ilen.toNat

/-- The KDF secret `SECRET[0..SLEN)` (R34). -/
def State.secretBytes (s : State) : Bytes := s.secret.readBytes 0 s.slen.toNat

/-- The custom label `LBUF[0..LLEN)` (R35). -/
def State.label (s : State) : Bytes := s.lbuf.readBytes 0 s.llen.toNat

/-! ### The cursor (40_cursor.md R105, R106) -/

/-- `remaining = LIMIT - POS`, 0 where R50 fails. DESIGN CHOICE (log entry 15). -/
def State.remaining (s : State) : Nat := s.limit.toNat - s.pos.toNat

/-- `IBUF[POS..POS+n)`. -/
def State.atCursor (s : State) (n : Nat) : Bytes := s.ibuf.readBytes s.pos.toNat n

/-- `order(ord)` (R106). -/
def State.order (s : State) (o : ReadOrder) : ByteOrder :=
  match o with
  | .big => .big
  | .little => .little
  | .persistent => if s.curle then .little else .big

/-- `POS <- p`. -/
def State.setPos (s : State) (p : Nat) : State := { s with pos := BitVec.ofNat 32 p }

/-! ### Key slots (10_state.md R42) -/

/-- The slot's bytes: 48 for PMK, 32 for SEK and SMK. -/
def State.slotBytes (s : State) (k : Slot) : Bytes :=
  match k with
  | .pmk => beBytes 48 s.pmk.toNat
  | .sek => beBytes 32 s.sek.toNat
  | .smk => beBytes 32 s.smk.toNat

/-- The slot's number: 1 = PMK, 2 = SEK, 3 = SMK. -/
def slotNumber (k : Slot) : Nat := (slotBits k).toNat

/-! ### Structure descriptors (10_state.md R45; 41_codec.md R120) -/

/-- `desc(t)`: nothing when the id is unknown. DEDUCED (log entry 16). -/
def State.desc (s : State) (t : BitVec 8) : Option Descriptor := s.params.structRom.lookup t

/-- The descriptor of the open builder's structure, empty where R50 fails. DESIGN CHOICE (log entry 15). -/
def State.openDesc (s : State) : Descriptor := (s.desc s.builderId).getD []

/-- `FS[f]`. -/
def State.field (s : State) (f : Nat) : Bytes := s.fs.getD f []

/-- The sum over all `g` of `|FS[g]|`. -/
def State.fsTotal (s : State) : Nat := (s.fs.map List.length).sum

/-! ### The cipher's configured order (44_gcm.md R188) -/

/-- The order `CFG.ORD` selects for the IV-length field: 1 big-endian, 2 little-endian. The commands use it only after
the test that `ORD` is not 0; `ORD` = 3 is in no reachable state. DESIGN CHOICE (log entry 15). -/
def State.cipherOrder (s : State) : ByteOrder := if s.ord = 1#2 then .big else .little

end Sys2Proof.Machine
end

