-- ==== Sys2Proof/Machine/Cipher.lean ====
section
/-! DEFINITION. The AES-GCM channel cipher commands (44_gcm.md R185 to R195). -/

namespace Sys2Proof.Machine

/-- The cipher key loaded (R186). -/
def State.setGkey (s : State) (k : BitVec 256) : State := { s with gkey := k, kstat := setBit s.kstat 3 }

/-- `notconf()` (R187): which setting is missing, the first of key (1), provider (2), byte order (3). -/
def State.missingSetting (s : State) : Option Nat :=
  if !s.gkeyValid then some 1 else if s.prov = 0 then some 2 else if s.ord = 0 then some 3 else none

/-- The command's own part, run only when the cipher is configured (R187). -/
def whenConfigured (s : State) (e : Ending) : Ending :=
  match s.missingSetting with
  | some which => .raise .notConf which 0 0
  | none => e

/-- The frame of a message (R188, R190). -/
def frame (o : ByteOrder) (k : BitVec 256) (iv : BitVec 96) (p : Bytes) : Bytes :=
  let sealedPair := gcmSeal k iv p
  writeInt4 o 12 ++ beBytes 12 iv.toNat ++ sealedPair.1 ++ sealedPair.2

/-- R193, checks 1 to 4: the frame's shape is one that can be decrypted. -/
def frameShapeOk (o : ByteOrder) (f : Bytes) : Bool :=
  if f.length < 4 then false
  else if readInt o (f.take 4) ≠ 12 then false
  else if f.length - 4 < 12 then false
  else if f.length - 16 < 16 then false
  else true

/-- `F[4..16)`. -/
def frameIv (f : Bytes) : BitVec 96 := BitVec.ofNat 96 (intBE ((f.drop 4).take 12))

/-- `F[16..|F|-16)`. -/
def frameCiphertext (f : Bytes) : Bytes := (f.drop 16).take (f.length - 32)

/-- `F[|F|-16..|F|)`. -/
def frameTag (f : Bytes) : Bytes := f.drop (f.length - 16)

/-- GCM.ENC after the configuration test (R190): the capacity, then one draw. -/
def encryptInput (s : State) : Ending :=
  if s.ilen.toNat + 32 > s.params.obufBytes then .raise .capacity (s.ilen.toNat + 32) s.params.obufBytes 0
  else .ok s.afterDraw (frame s.cipherOrder s.gkey s.nextDraw s.input) 0

/-- GCM.DEC after the configuration test (R194). -/
def decryptInput (s : State) : Ending :=
  let f := s.input
  if !frameShapeOk s.cipherOrder f then .raise .decrypt 0 0 0
  else if (frameCiphertext f).length > s.params.obufBytes then
    .raise .capacity (frameCiphertext f).length s.params.obufBytes 0
  else
    match gcmOpen s.gkey (frameIv f) (frameCiphertext f) (frameTag f) with
    | none => .raise .decrypt 0 0 0
    | some p => .ok s p 0

/-- GKEY.LD `src` (R186). -/
def execGkeyLd (src : KeySrc) (s : State) : Host.Outcome State Fault Refusal :=
  finish s
    (match src with
     | .ibuf =>
       if s.ilen.toNat ≠ 32 then .raise .badArg 6 s.ilen.toNat 0
       else done (s.setGkey (BitVec.ofNat 256 (intBE s.input)))
     | .sek => if !s.slotValid .sek then .raise .keyState 2 2 0 else done (s.setGkey s.sek))

/-- GCM.ENC (R190). -/
def execGcmEnc (s : State) : Host.Outcome State Fault Refusal := finish s (whenConfigured s (encryptInput s))

/-- GCM.DEC (R194). -/
def execGcmDec (s : State) : Host.Outcome State Fault Refusal := finish s (whenConfigured s (decryptInput s))

end Sys2Proof.Machine
end

