-- ==== Sys2Proof/Machine/Codec.lean ====
section
/-! DEFINITION. The conversion table and the structure codec (41_codec.md R120 to R145). -/

namespace Sys2Proof.Machine

/-! ### The conversion table (R121) -/

/-- `emap(t, actor, f) = CONVERT`, for the field descriptor of `f`. -/
def converts (actor : Actor) (x : FieldDesc) : Bool :=
  match actor with
  | .service => false
  | .firmware => decide (x.fw = .convert)

/-- `emapsize(t, actor)`. -/
def emapSize (actor : Actor) (d : Descriptor) : Nat :=
  match actor with
  | .service => 0
  | .firmware => d.countP fun x => x.fw ≠ .absent

/-- `conv(t, actor, f, v)` (R126). -/
def conv (actor : Actor) (x : FieldDesc) (v : Bytes) : Bytes := if converts actor x then revPrim x.prim v else v

/-- EMAP.GET `t`, `f`, `actor` (R122). -/
def execEmapGet (t f : BitVec 8) (actor : Actor) (s : State) : Host.Outcome State Fault Refusal :=
  finish s
    (match s.desc t with
     | none => .raise .badArg 1 t.toNat 0
     | some d =>
       match d[f.toNat]? with
       | none => .raise .badArg 3 f.toNat 0
       | some x => .ok s [] (if converts actor x then 1 else 0))

/-- EMAP.SIZE `t`, `actor` (R123). -/
def execEmapSize (t : BitVec 8) (actor : Actor) (s : State) : Host.Outcome State Fault Refusal :=
  finish s
    (match s.desc t with
     | none => .raise .badArg 1 t.toNat 0
     | some d => .ok s [] (BitVec.ofNat 32 (emapSize actor d)))

/-! ### Builder commands -/

/-- The field store of a new builder (R127): zeros for FIXED and LEN fields, the empty sequence for VAR fields. -/
def freshFields (d : Descriptor) : List Bytes := d.map fun x => zeros x.fixedSize

/-- A builder for `t` is open and holds `fields`. -/
def State.openBuilder (s : State) (t : BitVec 8) (fields : List Bytes) : State :=
  { s with fs := fields, ssel := sselOpen t }

/-- The size of the LEN field at index `lf` (R128: `w`), 0 where there is no such field: DESIGN CHOICE (log entry 21). -/
def lenSize (d : Descriptor) (lf : Nat) : Nat := ((d[lf]?).map FieldDesc.fixedSize).getD 0

/-- ST.NEW `t` (R127). -/
def execStNew (t : BitVec 8) (s : State) : Host.Outcome State Fault Refusal :=
  finish s
    (match s.desc t with
     | none => .raise .badArg 1 t.toNat 0
     | some d => done (s.openBuilder t (freshFields d)))

/-- ST.SETF's write of a FIXED field (R128). -/
def setFixed (s : State) (f size : Nat) : Ending :=
  if s.ilen.toNat ≠ size then .raise .fieldLen f size s.ilen.toNat
  else done { s with fs := s.fs.set f s.input }

/-- ST.SETF's write of a VAR field whose length field is `lf` (R128). -/
def setVar (s : State) (f lf : Nat) : Ending :=
  let total := s.fsTotal - (s.field f).length + s.ilen.toNat
  if total > s.params.fsBytes then .raise .capacity total s.params.fsBytes 0
  else done { s with fs := (s.fs.set f s.input).set lf (beBytes (lenSize s.openDesc lf) s.ilen.toNat) }

/-- ST.SETF `f` (R128). -/
def execStSetf (f : BitVec 8) (s : State) : Host.Outcome State Fault Refusal :=
  finish s
    (if !s.builderOpen then .raise .badArg 2 0 0
     else
       match s.openDesc[f.toNat]? with
       | none => .raise .badArg 3 f.toNat 0
       | some x =>
         match x.kind with
         | .fixed size => setFixed s f.toNat size
         | .len _ _ => .raise .badArg 4 f.toNat 0
         | .var lf => setVar s f.toNat lf)

/-- `OUT(out)` if OBUF can hold it (R129, R130). -/
def outOrCapacity (s : State) (out : Bytes) : Ending :=
  if out.length > s.params.obufBytes then .raise .capacity out.length s.params.obufBytes 0 else .ok s out 0

/-- ST.GETF `f` (R129). -/
def execStGetf (f : BitVec 8) (s : State) : Host.Outcome State Fault Refusal :=
  finish s
    (if !s.builderOpen then .raise .badArg 2 0 0
     else if f.toNat ≥ s.openDesc.length then .raise .badArg 3 f.toNat 0
     else outOrCapacity s (s.field f.toNat))

/-- `build(actor)` and `toBytes()` (R130): every field's wire value, in wire order. -/
def buildBytes (actor : Actor) (d : Descriptor) (fields : List Bytes) : Bytes :=
  (List.zipWith (conv actor) d fields).flatten

/-- ST.BUILD `actor` (R130). -/
def execStBuild (actor : Actor) (s : State) : Host.Outcome State Fault Refusal :=
  finish s
    (if !s.builderOpen then .raise .badArg 2 0 0
     else outOrCapacity s (buildBytes actor s.openDesc s.fs))

/-! ### Parsing (R139 to R143) -/

/-- A cursor failure inside ST.PARSE: remaining, bytes requested or expected, cause and field index (R141). -/
structure ParseFailure where
  remaining : Nat
  wanted : Nat
  info : Nat
  deriving DecidableEq, Repr

/-- `EINFO2` of `E_PARSE`: bits 7:0 the cause, bits 15:8 the field index (R141). -/
def parseInfo (cause f : Nat) : Nat := cause ||| (f <<< 8)

/-- Whether a field is variable. -/
def isVar (x : FieldDesc) : Bool :=
  match x.kind with
  | .var _ => true
  | _ => false

/-- How many bytes the next field takes (R141), given the logical values read so far. -/
def wantedBytes (x : FieldDesc) (values : List Bytes) : Nat :=
  match x.kind with
  | .fixed size => size
  | .len size _ => size
  | .var lf => intBE (values.getD lf [])

/-- The read phase (R141): the fields still to read, the logical values read so far, and the bytes the private cursor
(R140) has not read yet. It ends with all values and the bytes left over. -/
def readFields (actor : Actor) (todo : List FieldDesc) (values : List Bytes) (rest : Bytes) :
    Except ParseFailure (List Bytes × Bytes) :=
  match todo with
  | [] => .ok (values, rest)
  | x :: later =>
    let k := wantedBytes x values
    if rest.length < k then .error ⟨rest.length, k, parseInfo 1 values.length⟩
    else if isVar x && later.isEmpty && decide (rest.length ≠ k) then
      .error ⟨rest.length, k, parseInfo 2 values.length⟩
    else readFields actor later (values ++ [conv actor x (rest.take k)]) (rest.drop k)

/-- The magic phase (R142): the first field, in wire order, whose value its allow-list does not hold. -/
def badMagic (f : Nat) (d : Descriptor) (values : List Bytes) : Option (Nat × Nat) :=
  match d, values with
  | x :: ds, v :: vs =>
    match x.magic with
    | none => badMagic (f + 1) ds vs
    | some allowed => if intBE v ∈ allowed then badMagic (f + 1) ds vs else some (f, intBE v)
  | _, _ => none

/-- ST.PARSE with the descriptor found (R139). -/
def parseWith (s : State) (t : BitVec 8) (actor : Actor) (d : Descriptor) : Ending :=
  match readFields actor d [] s.input with
  | .error e => .raise .parse e.remaining e.wanted e.info
  | .ok (values, rest) =>
    match badMagic 0 d values with
    | some (f, v) => .raise .struct f v 1
    | none =>
      if rest.length ≠ 0 then .raise .struct d.length rest.length 2
      else if s.ilen.toNat > s.params.fsBytes then .raise .capacity s.ilen.toNat s.params.fsBytes 0
      else done (s.openBuilder t values)

/-- ST.PARSE `t`, `actor` (R139). -/
def execStParse (t : BitVec 8) (actor : Actor) (s : State) : Host.Outcome State Fault Refusal :=
  finish s
    (match s.desc t with
     | none => .raise .badArg 1 t.toNat 0
     | some d => parseWith s t actor d)

end Sys2Proof.Machine
end

