-- ==== Sys2Proof/Machine/Cursor.lean ====
section
/-! DEFINITION. The cursor commands (40_cursor.md R105 to R114): the SafeCursor over IBUF. -/

namespace Sys2Proof.Machine

/-- A read of a `k`-byte integer (R108, R109): the underrun test, then `RES` and `POS`. -/
def readScalar (s : State) (ord : ReadOrder) (k : Nat) : Ending :=
  if s.remaining < k then .raise .underrun s.remaining k 0
  else .ok (s.setPos (s.pos.toNat + k)) [] (BitVec.ofNat 32 (readInt (s.order ord) (s.atCursor k)))

/-- `OUT(IBUF[POS..POS+n)); POS <- POS + n`, if OBUF can hold `n` bytes (R110, R111). -/
def readOut (s : State) (n : Nat) : Ending :=
  if n > s.params.obufBytes then .raise .capacity n s.params.obufBytes 0
  else .ok (s.setPos (s.pos.toNat + n)) (s.atCursor n) 0

/-- The move of CUR.SKIP and CUR.SEEK to `target` (R112, R113). -/
def moveTo (s : State) (target : Nat) : Ending :=
  if target > s.limit.toNat then .raise .invPos target s.limit.toNat 0 else done (s.setPos target)

/-- CUR.WRAP (R107). -/
def execCurWrap (s : State) : Host.Outcome State Fault Refusal :=
  finish s (done { s with limit := s.ilen, pos := 0 })

/-- CUR.RD16 `ord` (R108). -/
def execCurRd16 (ord : ReadOrder) (s : State) : Host.Outcome State Fault Refusal := finish s (readScalar s ord 2)

/-- CUR.RD32 `ord` (R109). -/
def execCurRd32 (ord : ReadOrder) (s : State) : Host.Outcome State Fault Refusal := finish s (readScalar s ord 4)

/-- CUR.RDN `n` (R110). -/
def execCurRdn (n : BitVec 16) (s : State) : Host.Outcome State Fault Refusal :=
  finish s (if s.remaining < n.toNat then .raise .underrun s.remaining n.toNat 0 else readOut s n.toNat)

/-- CUR.RDX `n` (R111): `readExact`, underrun tested first, the exact length additionally. -/
def execCurRdx (n : BitVec 16) (s : State) : Host.Outcome State Fault Refusal :=
  finish s
    (if s.remaining < n.toNat then .raise .underrun s.remaining n.toNat 0
     else if s.remaining ≠ n.toNat then .raise .lenMismatch s.remaining n.toNat 0
     else readOut s n.toNat)

/-- CUR.SKIP `n` (R112). -/
def execCurSkip (n : BitVec 16) (s : State) : Host.Outcome State Fault Refusal :=
  finish s (moveTo s (s.pos.toNat + n.toNat))

/-- CUR.SEEK `pos` (R113). -/
def execCurSeek (pos : BitVec 16) (s : State) : Host.Outcome State Fault Refusal := finish s (moveTo s pos.toNat)

end Sys2Proof.Machine
end

