-- ==== Sys2Proof/Machine/Header.lean ====
section
/-! DEFINITION. The command header commands (42_header.md R150 to R159). -/

namespace Sys2Proof.Machine

/-- `hword` (R153): each value shifted to its offset and OR-combined; nothing is masked. -/
def headerWord (h : HdrTable) (code len client id : Word) : Word :=
  (code <<< h.code.offset) ||| (len <<< h.length.offset) ||| (client <<< h.client.offset) ||| (id <<< h.id.offset)

/-- `hfield` (R157). -/
def headerField (x : HdrField) (w : Word) : Word := (w <<< (32 - x.offset - x.width)) >>> (32 - x.width)

/-- The header word of the four header registers. -/
def State.headerWord (s : State) : Word := Machine.headerWord s.params.hdr s.hcode s.hlen s.hclient s.hid

/-- The input as a word in the given order (R156, R158). -/
def State.inputWord (s : State) (o : ByteOrder) : Word := BitVec.ofNat 32 (readInt o s.input)

/-- The four header registers taken from a word (R156). -/
def State.setHeader (s : State) (w : Word) : State :=
  { s with
    hcode := headerField s.params.hdr.code w
    hlen := headerField s.params.hdr.length w
    hclient := headerField s.params.hdr.client w
    hid := headerField s.params.hdr.id w }

/-- The length test, then the four registers (R156, R158). -/
def parseHeader (s : State) (o : ByteOrder) : Ending :=
  if s.ilen.toNat ≠ 4 then .raise .hdr s.ilen.toNat 0 0 else done (s.setHeader (s.inputWord o))

/-- The order `T` says the bytes are in (R159). -/
def orderOfT (o : HdrOrder) : ByteOrder :=
  match o with
  | .raw => .big
  | .xport => .little

/-- The status test of R159. -/
def checkStatus (s : State) (status : Word) : Ending :=
  if status = s.params.unknownCmdCode then .raise .unkCmd status.toNat 0 0
  else if status ≠ 0 then .raise .cmdFail status.toNat 0 0
  else done s

/-- HDR.BUILD (R152): most significant byte first. -/
def execHdrBuild (s : State) : Host.Outcome State Fault Refusal :=
  finish s (.ok s (beBytes 4 s.headerWord.toNat) 0)

/-- HDR.BUILDT (R154): the four bytes reversed as one unit. -/
def execHdrBuildt (s : State) : Host.Outcome State Fault Refusal :=
  finish s (.ok s (beBytes 4 s.headerWord.toNat).reverse 0)

/-- HDR.PARSE (R156). -/
def execHdrParse (s : State) : Host.Outcome State Fault Refusal := finish s (parseHeader s .big)

/-- HDR.PARSET (R158). -/
def execHdrParset (s : State) : Host.Outcome State Fault Refusal := finish s (parseHeader s .little)

/-- HDR.VALID `T` (R159): the header registers are not written. -/
def execHdrValid (order : HdrOrder) (s : State) : Host.Outcome State Fault Refusal :=
  finish s
    (if s.ilen.toNat ≠ 4 then .raise .hdr s.ilen.toNat 0 0
     else checkStatus s (headerField s.params.hdr.code (s.inputWord (orderOfT order))))

end Sys2Proof.Machine
end

