-- ==== Sys2Proof/Machine/Sha384.lean ====
section
/-! DEFINITION. SHA-384 and HMAC-SHA-384 (48_crypto_primitives.md R230 to R234). The spec lists the constants four
words a line, and the eight words of a hash value move in two groups of four, so both are held in fours here. -/

namespace Sys2Proof.Machine

/-- A 64-bit word of SHA-384 (R230). -/
abbrev Word64 := BitVec 64

/-- Four 64-bit words, in the order of the spec. -/
structure WordFour where
  first : Word64
  second : Word64
  third : Word64
  fourth : Word64
  deriving DecidableEq, Repr

/-- Four words from one line of a table of R231, as a number whose leftmost word is the most significant. -/
def WordFour.ofRow (row : Nat) : WordFour where
  first := BitVec.ofNat 64 (row >>> 192)
  second := BitVec.ofNat 64 (row >>> 128)
  third := BitVec.ofNat 64 (row >>> 64)
  fourth := BitVec.ofNat 64 row

/-- The four words as a list. -/
def WordFour.words (x : WordFour) : List Word64 := [x.first, x.second, x.third, x.fourth]

/-- `be_8` of each word (R230). -/
def WordFour.bytes (x : WordFour) : Bytes := x.words.flatMap fun w => beBytes 8 w.toNat

/-- Every word moves on by one place: `w` comes in first and the fourth goes out (R233). -/
def WordFour.shiftIn (x : WordFour) (w : Word64) : WordFour := ⟨w, x.first, x.second, x.third⟩

/-- The sum word by word, modulo 2^64. -/
def WordFour.sum (x y : WordFour) : WordFour :=
  ⟨x.first + y.first, x.second + y.second, x.third + y.third, x.fourth + y.fourth⟩

/-! ### Constants (R231) -/

/-- The lines of the table of `K`, `K[0]` to `K[39]`. -/
def shaRowsLow : List Nat :=
  [0x428a2f98d728ae227137449123ef65cdb5c0fbcfec4d3b2fe9b5dba58189dbbc,
   0x3956c25bf348b53859f111f1b605d019923f82a4af194f9bab1c5ed5da6d8118,
   0xd807aa98a303024212835b0145706fbe243185be4ee4b28c550c7dc3d5ffb4e2,
   0x72be5d74f27b896f80deb1fe3b1696b19bdc06a725c71235c19bf174cf692694,
   0xe49b69c19ef14ad2efbe4786384f25e30fc19dc68b8cd5b5240ca1cc77ac9c65,
   0x2de92c6f592b02754a7484aa6ea6e4835cb0a9dcbd41fbd476f988da831153b5,
   0x983e5152ee66dfaba831c66d2db43210b00327c898fb213fbf597fc7beef0ee4,
   0xc6e00bf33da88fc2d5a79147930aa72506ca6351e003826f142929670a0e6e70,
   0x27b70a8546d22ffc2e1b21385c26c9264d2c6dfc5ac42aed53380d139d95b3df,
   0x650a73548baf63de766a0abb3c77b2a881c2c92e47edaee692722c851482353b]

/-- The lines of the table of `K`, `K[40]` to `K[79]`. -/
def shaRowsHigh : List Nat :=
  [0xa2bfe8a14cf10364a81a664bbc423001c24b8b70d0f89791c76c51a30654be30,
   0xd192e819d6ef5218d69906245565a910f40e35855771202a106aa07032bbd1b8,
   0x19a4c116b8d2d0c81e376c085141ab532748774cdf8eeb9934b0bcb5e19b48a8,
   0x391c0cb3c5c95a634ed8aa4ae3418acb5b9cca4f7763e373682e6ff3d6b2b8a3,
   0x748f82ee5defb2fc78a5636f43172f6084c87814a1f0ab728cc702081a6439ec,
   0x90befffa23631e28a4506cebde82bde9bef9a3f7b2c67915c67178f2e372532b,
   0xca273eceea26619cd186b8c721c0c207eada7dd6cde0eb1ef57d4f7fee6ed178,
   0x06f067aa72176fba0a637dc5a2c898a6113f9804bef90dae1b710b35131c471b,
   0x28db77f523047d8432caab7b40c724933c9ebe0a15c9bebc431d67c49c100d4c,
   0x4cc5d4becb3e42b6597f299cfc657e2a5fcb6fab3ad6faec6c44198c4a475817]

/-- The round constants `K[0..80)`. -/
def shaK : List Word64 := (shaRowsLow ++ shaRowsHigh).flatMap fun row => (WordFour.ofRow row).words

/-- A hash value `H0` to `H7`, and the words `a` to `h` while a block is worked in (R233): `a` to `d`, and `e` to `h`. -/
structure ShaState where
  low : WordFour
  high : WordFour
  deriving DecidableEq, Repr

/-- The initial hash value. -/
def shaInit : ShaState where
  low := .ofRow 0xcbbb9d5dc1059ed8629a292a367cd5079159015a3070dd17152fecd8f70e5939
  high := .ofRow 0x67332667ffc00b318eb44a8768581511db0c2e0d64f98fa747b5481dbefa4fa4

/-! ### Functions (R232) -/

/-- The exclusive or of a word's rotations, by the counts given. -/
def rotations (counts : List Nat) (x : Word64) : Word64 := counts.foldl (fun acc n => acc ^^^ x.rotateRight n) 0

/-- `BSIG0`. -/
def bsig0 : Word64 → Word64 := rotations [28, 34, 39]

/-- `BSIG1`. -/
def bsig1 : Word64 → Word64 := rotations [14, 18, 41]

/-- `SSIG0`. -/
def ssig0 (x : Word64) : Word64 := rotations [1, 8] x ^^^ x >>> 7

/-- `SSIG1`. -/
def ssig1 (x : Word64) : Word64 := rotations [19, 61] x ^^^ x >>> 6

/-- `Ch` of the first three words. -/
def WordFour.ch (q : WordFour) : Word64 := (q.first &&& q.second) ^^^ (~~~q.first &&& q.third)

/-- `Maj` of the first three words. -/
def WordFour.maj (q : WordFour) : Word64 :=
  (q.first &&& q.second) ^^^ (q.first &&& q.third) ^^^ (q.second &&& q.third)

/-! ### The hash (R230, R233) -/

/-- `pad(M)`: the count of zeros is the least that fills the last 128 bytes. -/
def shaPad (m : Bytes) : Bytes := m ++ [0x80] ++ zeros (127 - (m.length + 16) % 128) ++ beBytes 16 (8 * m.length)

/-- The sixteen words of a 128-byte block. -/
def blockWords (s : Bytes) : List Word64 := (chunks 8 16 s).map fun w => BitVec.ofNat 64 (intBE w)

/-- `W[t]` from the words before it, the latest first: `W[t-2]`, `W[t-7]`, `W[t-15]`, `W[t-16]`. -/
def nextScheduleWord (ws : List Word64) : Word64 :=
  ssig1 (ws.getD 1 0) + ws.getD 6 0 + ssig0 (ws.getD 14 0) + ws.getD 15 0

/-- `W[0..80)`. -/
def schedule (m : List Word64) : List Word64 :=
  ((List.range 64).foldl (fun ws _ => nextScheduleWord ws :: ws) m.reverse).reverse

/-- `T1`, where `kw` is `K[t] + W[t]`. -/
def ShaState.t1 (s : ShaState) (kw : Word64) : Word64 := s.high.fourth + bsig1 s.high.first + s.high.ch + kw

/-- `T2`. -/
def ShaState.t2 (s : ShaState) : Word64 := bsig0 s.low.first + s.low.maj

/-- One of the 80 rounds: `a` becomes `T1 + T2`, `e` becomes `d + T1`, every other word the one before it. -/
def shaRound (s : ShaState) (kw : Word64) : ShaState where
  low := s.low.shiftIn (s.t1 kw + s.t2)
  high := s.high.shiftIn (s.low.fourth + s.t1 kw)

/-- One 128-byte block: the 80 rounds, then the sum with the hash value before it. -/
def shaCompress (hash : ShaState) (block : Bytes) : ShaState :=
  let worked := (List.zipWith (· + ·) shaK (schedule (blockWords block))).foldl shaRound hash
  ⟨hash.low.sum worked.low, hash.high.sum worked.high⟩

/-- The hash value after the last block. -/
def shaState (m : Bytes) : ShaState := (chunks 128 (shaPad m).length (shaPad m)).foldl shaCompress shaInit

/-- `SHA384(M)`: 48 bytes, `H6` and `H7` dropped. -/
def sha384 (m : Bytes) : Bytes := ((shaState m).low.bytes ++ (shaState m).high.bytes).take 48

/-! ### HMAC (R234) -/

/-- `K0`: the key, hashed first when it is longer than the 128-byte block, with zeros to the block size. -/
def hmacKey (key : Bytes) : Bytes :=
  let k := if key.length > 128 then sha384 key else key
  k ++ zeros (128 - k.length)

/-- `K0 ⊕ b^128`. -/
def hmacPadded (key : Bytes) (b : Byte) : Bytes := (hmacKey key).map (· ^^^ b)

/-- `HMAC_SHA384(key, msg)`. -/
def hmacSha384 (key msg : Bytes) : Bytes := sha384 (hmacPadded key 0x5C ++ sha384 (hmacPadded key 0x36 ++ msg))

end Sys2Proof.Machine
end

