-- ==== Sys2Proof/Machine/Kdf.lean ====
section
/-! DEFINITION. The key derivation commands (43_kdf.md R165 to R177). -/

namespace Sys2Proof.Machine

/-! ### The function -/

/-- `pad27(l)` (R168), for `|l|` ≤ 27. A longer label is left as it is: DESIGN CHOICE (log entry 21). -/
def pad27 (l : Bytes) : Bytes := l ++ zeros (27 - l.length)

/-- `C16` (R166): the context "PSG-SIGMA", zero-padded to 16 bytes. -/
def kdfContext : Bytes := [0x50, 0x53, 0x47, 0x2D, 0x53, 0x49, 0x47, 0x4D, 0x41] ++ zeros 7

/-- `kdfblock(L27, n)` (R166): counter, label, separator, context, reserved word, output length in bits. -/
def kdfBlock (label27 : Bytes) (n : Nat) : Bytes :=
  leBytes 4 1 ++ label27 ++ [0x00] ++ kdfContext ++ leBytes 4 0 ++ leBytes 4 (8 * n)

/-- HMAC over the parameter `KDF_HASH` (R167): the first 48 bytes of the digest. DESIGN CHOICE (log
entry 13). -/
def kdfHmac (hash : KdfHash) (key msg : Bytes) : Bytes :=
  match hash with
  | .sha384 => hmacSha384 key msg
  | .other id => beBytes 48 (Config.otherHmac id key msg).toNat

/-- `kdf(secret, l, n)` (R168), for `n` ≤ 48. A larger `n` gives 48 bytes: DESIGN CHOICE (log entry 21). -/
def kdf (hash : KdfHash) (secret l : Bytes) (n : Nat) : Bytes := (kdfHmac hash secret (kdfBlock (pad27 l) n)).take n

/-- The label of a named derivation (R169), in ASCII: "PROTOCOL MAC", "SESSION ENC", "SESSION MAC". -/
def slotLabel (k : Slot) : Bytes :=
  match k with
  | .pmk => [0x50, 0x52, 0x4F, 0x54, 0x4F, 0x43, 0x4F, 0x4C, 0x20, 0x4D, 0x41, 0x43]
  | .sek => [0x53, 0x45, 0x53, 0x53, 0x49, 0x4F, 0x4E, 0x20, 0x45, 0x4E, 0x43]
  | .smk => [0x53, 0x45, 0x53, 0x53, 0x49, 0x4F, 0x4E, 0x20, 0x4D, 0x41, 0x43]

/-- The output length of a named derivation (R169). -/
def slotLength (k : Slot) : Nat :=
  match k with
  | .pmk => 48
  | .sek => 32
  | .smk => 32

/-! ### The commands -/

/-- A slot written with its bytes, its valid bit set (R173 to R175). -/
def State.setSlot (s : State) (k : Slot) (v : Bytes) : State :=
  match k with
  | .pmk => { s with pmk := BitVec.ofNat 384 (intBE v), kstat := setBit s.kstat (slotBit k) }
  | .sek => { s with sek := BitVec.ofNat 256 (intBE v), kstat := setBit s.kstat (slotBit k) }
  | .smk => { s with smk := BitVec.ofNat 256 (intBE v), kstat := setBit s.kstat (slotBit k) }

/-- A named derivation (R172, R173): the slot is written once, from the secret. -/
def deriveSlot (s : State) (k : Slot) : Ending :=
  if s.slotValid k then .raise .keyState 1 (slotNumber k) 0
  else if s.slen = 0 then .raise .keyState 3 0 0
  else done (s.setSlot k (kdf s.params.kdfHash s.secretBytes (slotLabel k) (slotLength k)))

/-- KDF.DERIVE `n` (R170). -/
def execKdfDerive (n : BitVec 16) (s : State) : Host.Outcome State Fault Refusal :=
  finish s
    (if n.toNat > 48 then .raise .badArg 5 n.toNat 0
     else if s.slen = 0 then .raise .keyState 3 0 0
     else .ok s (kdf s.params.kdfHash s.secretBytes s.label n.toNat) 0)

/-- KDF.PMK (R173). -/
def execKdfPmk (s : State) : Host.Outcome State Fault Refusal := finish s (deriveSlot s .pmk)

/-- KDF.SEK (R174). -/
def execKdfSek (s : State) : Host.Outcome State Fault Refusal := finish s (deriveSlot s .sek)

/-- KDF.SMK (R175). -/
def execKdfSmk (s : State) : Host.Outcome State Fault Refusal := finish s (deriveSlot s .smk)

/-- KEY.RD `slot` (R177). -/
def execKeyRd (slot : Slot) (s : State) : Host.Outcome State Fault Refusal :=
  finish s
    (if !s.slotValid slot then .raise .keyState 2 (slotNumber slot) 0 else .ok s (s.slotBytes slot) 0)

end Sys2Proof.Machine
end

