-- ==== Sys2Proof/Machine/System.lean ====
section
/-! DEFINITION. The system commands NOP, SRST, KCLR (45_system.md R205 to R208). -/

namespace Sys2Proof.Machine

/-- The keys, the secret and `KSTAT` cleared (R208). -/
def State.clearKeys (s : State) : State :=
  { s with pmk := 0, sek := 0, smk := 0, gkey := 0, secret := [], slen := 0, kstat := 0 }

/-- NOP (R206): nothing but OK completion. -/
def execNop (s : State) : Host.Outcome State Fault Refusal := finish s (done s)

/-- SRST (R207): every piece of the block's state gets its reset value. -/
def execSrst (s : State) : Host.Outcome State Fault Refusal := finish s (done s.resetBlock)

/-- KCLR (R208): the three slots, `GKEY`, SECRET, `SLEN` and `KSTAT`. -/
def execKclr (s : State) : Host.Outcome State Fault Refusal := finish s (done s.clearKeys)

end Sys2Proof.Machine
end

