-- ==== Sys2Proof/Machine/Dispatch.lean ====
section
/-! DEFINITION. What each command does: one arm for each constructor of Instr, in the order of 30_encoding.md R93. -/

namespace Sys2Proof.Machine

def exec (i : Instr) (s : State) : Host.Outcome State Fault Refusal :=
  match i with
  | .nop => Sys2Proof.Machine.execNop s
  | .srst => Sys2Proof.Machine.execSrst s
  | .kclr => Sys2Proof.Machine.execKclr s
  | .curWrap => Sys2Proof.Machine.execCurWrap s
  | .curRd16 ord => Sys2Proof.Machine.execCurRd16 ord s
  | .curRd32 ord => Sys2Proof.Machine.execCurRd32 ord s
  | .curRdn n => Sys2Proof.Machine.execCurRdn n s
  | .curRdx n => Sys2Proof.Machine.execCurRdx n s
  | .curSkip n => Sys2Proof.Machine.execCurSkip n s
  | .curSeek pos => Sys2Proof.Machine.execCurSeek pos s
  | .emapGet t f actor => Sys2Proof.Machine.execEmapGet t f actor s
  | .emapSize t actor => Sys2Proof.Machine.execEmapSize t actor s
  | .stNew t => Sys2Proof.Machine.execStNew t s
  | .stSetf f => Sys2Proof.Machine.execStSetf f s
  | .stGetf f => Sys2Proof.Machine.execStGetf f s
  | .stBuild actor => Sys2Proof.Machine.execStBuild actor s
  | .stParse t actor => Sys2Proof.Machine.execStParse t actor s
  | .hdrBuild => Sys2Proof.Machine.execHdrBuild s
  | .hdrBuildt => Sys2Proof.Machine.execHdrBuildt s
  | .hdrParse => Sys2Proof.Machine.execHdrParse s
  | .hdrParset => Sys2Proof.Machine.execHdrParset s
  | .hdrValid order => Sys2Proof.Machine.execHdrValid order s
  | .kdfDerive n => Sys2Proof.Machine.execKdfDerive n s
  | .kdfPmk => Sys2Proof.Machine.execKdfPmk s
  | .kdfSek => Sys2Proof.Machine.execKdfSek s
  | .kdfSmk => Sys2Proof.Machine.execKdfSmk s
  | .keyRd slot => Sys2Proof.Machine.execKeyRd slot s
  | .gkeyLd src => Sys2Proof.Machine.execGkeyLd src s
  | .gcmEnc => Sys2Proof.Machine.execGcmEnc s
  | .gcmDec => Sys2Proof.Machine.execGcmDec s

end Sys2Proof.Machine
end

