-- ==== Sys2Proof/Machine/HostPort.lean ====
section
/-! DEFINITION. The host port (20_memory.md R60 to R66; 10_state.md R24 to R41, R49): the address map, reads, writes,
and the command a write to `CMD` runs. -/

namespace Sys2Proof.Machine

/-! ### The address map (R61) -/

/-- The register at a byte address: 20 of them, every fourth address from 0x00000 to 0x0004C (R61, R63). -/
def regAt (addr : BitVec 20) : Option Reg :=
  match addr.toNat with
  | 0x00 => some .cmd
  | 0x04 => some .status
  | 0x08 => some .einfo0
  | 0x0C => some .einfo1
  | 0x10 => some .einfo2
  | 0x14 => some .esticky
  | 0x18 => some .cfg
  | 0x1C => some .kstat
  | 0x20 => some .ilen
  | 0x24 => some .olen
  | 0x28 => some .pos
  | 0x2C => some .limit
  | 0x30 => some .res
  | 0x34 => some .slen
  | 0x38 => some .llen
  | 0x3C => some .ssel
  | 0x40 => some .hcode
  | 0x44 => some .hlen
  | 0x48 => some .hclient
  | 0x4C => some .hid
  | _ => none

/-- The offset of an address in a window of `size` bytes at `base`. -/
def inWindow (addr base size : Nat) : Option Nat :=
  if base ≤ addr ∧ addr < base + size then some (addr - base) else none

/-- The buffer window an address lies in, with the offset (R61, R64). -/
def bufferAt (p : Params) (addr : BitVec 20) : Option (Buffer × Nat) :=
  let a := addr.toNat
  match inWindow a 0x10000 p.ibufBytes, inWindow a 0x20000 p.obufBytes, inWindow a 0x30000 p.secretMax,
      inWindow a 0x30100 27 with
  | some i, _, _, _ => some (.ibuf, i)
  | none, some i, _, _ => some (.obuf, i)
  | none, none, some i, _ => some (.secret, i)
  | none, none, none, some i => some (.lbuf, i)
  | none, none, none, none => none

/-! ### Reads (R63, R64, R66: no side effect) -/

/-- What a read of a register gives; `CMD` holds nothing and reads 0 (R24). -/
def State.readReg (s : State) (r : Reg) : Word :=
  match r with
  | .cmd => 0
  | .status => s.status
  | .einfo0 => s.einfo0
  | .einfo1 => s.einfo1
  | .einfo2 => s.einfo2
  | .esticky => s.esticky
  | .cfg => s.cfg
  | .kstat => s.kstat
  | .ilen => s.ilen
  | .olen => s.olen
  | .pos => s.pos
  | .limit => s.limit
  | .res => s.res
  | .slen => s.slen
  | .llen => s.llen
  | .ssel => s.ssel
  | .hcode => s.hcode
  | .hlen => s.hlen
  | .hclient => s.hclient
  | .hid => s.hid

/-- What a read of a buffer's byte gives: OBUF reads 0x00 at and above `OLEN` (R39), SECRET always (R40). -/
def State.readBuffer (s : State) (b : Buffer) (i : Nat) : Byte :=
  match b with
  | .ibuf => s.ibuf.read i
  | .obuf => if i < s.olen.toNat then s.obuf.read i else 0
  | .secret => 0
  | .lbuf => s.lbuf.read i

/-! ### Writes (10_state.md R49; 20_memory.md R64) -/

/-- The value stored in a length register: a value above the maximum is ignored (R30, R34, R35). -/
def lengthStored (old v : Word) (max : Nat) : Word := if v.toNat ≤ max then v else old

/-- A host write to a register other than `CMD`. -/
def State.writeReg (s : State) (r : Reg) (v : Word) : State :=
  match r with
  | .esticky => { s with esticky := s.esticky &&& ~~~v }
  | .cfg => { s with cfg := cfgStored v }
  | .ilen => { s with ilen := lengthStored s.ilen v s.params.ibufBytes }
  | .slen => { s with slen := lengthStored s.slen v s.params.secretMax }
  | .llen => { s with llen := lengthStored s.llen v 27 }
  | .hcode => { s with hcode := v }
  | .hlen => { s with hlen := v }
  | .hclient => { s with hclient := v }
  | .hid => { s with hid := v }
  | .cmd => s
  | .status => s
  | .einfo0 => s
  | .einfo1 => s
  | .einfo2 => s
  | .kstat => s
  | .olen => s
  | .pos => s
  | .limit => s
  | .res => s
  | .ssel => s

/-- A host write to a buffer's byte; OBUF ignores it (R39). -/
def State.writeBuffer (s : State) (b : Buffer) (i : Nat) (v : Byte) : State :=
  match b with
  | .ibuf => { s with ibuf := s.ibuf.write i v }
  | .obuf => s
  | .secret => { s with secret := s.secret.write i v }
  | .lbuf => { s with lbuf := s.lbuf.write i v }

/-! ### Transactions -/

/-- The port has answered. -/
def State.answered (s : State) (a : Answer) : State := { s with answer := a }

/-- A write of `w` to `CMD` (10_state.md R24): the command the word encodes is executed, whole; an illegal word
executes as a command that faults with `E_ILLCMD(w)` (30_encoding.md R95). DEDUCED (log entry 9). -/
def runCommand (w : Word) (s : State) : Host.Outcome State Fault Refusal :=
  match decode w with
  | .ok i => exec i s
  | .error _ => .next (s.faultEntry .illCmd w.toNat 0 0)

/-- `MemWrite(addr, 4, v)` to a register. -/
def writeRegister (r : Reg) (v : Word) (s : State) : Host.Outcome State Fault Refusal :=
  match r with
  | .cmd => runCommand v (s.answered .done)
  | _ => .next ((s.writeReg r v).answered .done)

/-- One action of the host (R62 to R65; the reset input, R280). A bus error is refused: DEDUCED (log entry 8). -/
def hostAct (a : HostAction) (s : State) : Host.Outcome State Fault Refusal :=
  match a with
  | .read32 addr =>
    match regAt addr with
    | some r => .next (s.answered (.data (s.readReg r)))
    | none => .refused .busError
  | .write32 addr v =>
    match regAt addr with
    | some r => writeRegister r v s
    | none => .refused .busError
  | .read8 addr =>
    match bufferAt s.params addr with
    | some (b, i) => .next (s.answered (.data ((s.readBuffer b i).zeroExtend 32)))
    | none => .refused .busError
  | .write8 addr v =>
    match bufferAt s.params addr with
    | some (b, i) => .next ((s.writeBuffer b i v).answered .done)
    | none => .refused .busError
  | .reset => .next (s.resetBlock.answered .idle)

end Sys2Proof.Machine
end

