-- ==== Sys2Proof/Machine/Step.lean ====
section
/-! DEFINITION. One step of the block in its environment: the host's next action. -/

namespace Sys2Proof.Machine

/-- The state with one host action taken from the front of those still to come. -/
def State.withPending (s : State) (rest : List HostAction) : State := { s with pending := rest }

/-- One step. The block fetches nothing (10_state.md R22): what runs next is the host's next action (00_scope.md R18,
20_memory.md R75); when the host does nothing the block is idle (R18, R275). DESIGN
CHOICE (log entries 5 and 7). -/
def step (s : State) : Host.Outcome State Fault Refusal :=
  match s.pending with
  | [] => .next s
  | a :: rest => hostAct a (s.withPending rest)

/-- The instruction word placed where `step` takes its next instruction: as the host's next action, a write of the word
to `CMD` (R24). DESIGN CHOICE (log entry 5). -/
def State.withFetchWord (s : State) (nbits w : Nat) : State :=
  s.withPending (.write32 0x00000#20 (BitVec.ofNat 32 (w % 2 ^ nbits)) :: s.pending)

end Sys2Proof.Machine
end

