-- ==== Sys2Proof/Safety.lean ====
section
/-! DEFINITION. What the claims are about: the three ways a command ends (60_exceptions.md R245, R249, R250), the
invariants of 10_state.md R50, and the read phase of a parse as a relation (41_codec.md R139, R141). -/

namespace Sys2Proof.Safety

open Sys2Proof.Machine

/-! ### How a command ends -/

/-- The command `i` run from `s` ends OK without a byte output (R249): the state is `w`, which is `s` with the
command's own writes, but for the completion registers; the scalar result is `res`. -/
def EndsOk (i : Instr) (s w : State) (res : Word) : Prop :=
  exec i s = .next { w with status := 0, einfo0 := 0, einfo1 := 0, einfo2 := 0, olen := 0, res := res }

/-- The command `i` run from `s` ends OK with the byte output `out` (R249): OBUF holds `out` at its start and is
unchanged above it; the rest of the state is `w`, but for the completion registers. -/
def EndsOkWithOutput (i : Instr) (s w : State) (out : Bytes) : Prop :=
  ∃ t : State, exec i s = .next t ∧
    t = { w with
      status := 0, einfo0 := 0, einfo1 := 0, einfo2 := 0, res := 0
      olen := BitVec.ofNat 32 out.length, obuf := t.obuf } ∧
    (∀ (k : Nat) (h : k < out.length), t.obuf.read k = out[k]) ∧
    ∀ k : Nat, out.length ≤ k → t.obuf.read k = w.obuf.read k

/-- The command `i` run from `s` ends with the fault `code` and its information words (R250): nothing but `STATUS`,
`EINFO0..2`, `ESTICKY`, `OLEN` and `RES` changes. -/
def EndsWithFault (i : Instr) (s : State) (code i0 i1 i2 : Nat) : Prop :=
  exec i s = .next { s with
    status := BitVec.ofNat 32 code
    einfo0 := BitVec.ofNat 32 i0, einfo1 := BitVec.ofNat 32 i1, einfo2 := BitVec.ofNat 32 i2
    esticky := s.esticky ||| (1#32 <<< code), olen := 0, res := 0 }

/-! ### The invariants (R50) -/

/-- What R50 says of one field of an open builder: a FIXED field has its size, a LEN field holds its target's length
in service order. -/
def fieldFits (fields : List Bytes) (x : FieldDesc) (f : Nat) : Bool :=
  match x.kind with
  | .fixed size => decide ((fields.getD f []).length = size)
  | .len size target => decide (fields.getD f [] = beBytes size (fields.getD target []).length)
  | .var _ => true

/-- The field store holds one byte sequence for each field of the structure (10_state.md R44), each as R50 says. -/
abbrev FieldsFit (d : Descriptor) (fields : List Bytes) : Prop :=
  fields.length = d.length ∧ ∀ p ∈ d.zipIdx, fieldFits fields p.1 p.2 = true

/-- A buffer of `n` bytes: in canonical form, no cell at or above `n`. -/
abbrev BufferOk (m : Memory) (n : Nat) : Prop := m.wf ∧ ∀ c ∈ m, c.1 < n

/-- The invariants of R50, with the reserved bits of R25 to R29 and R36 zero and the buffers in canonical form. -/
structure Invariants (s : State) : Prop where
  /-- `POS` ≤ `LIMIT`. -/
  pos_le_limit : s.pos.toNat ≤ s.limit.toNat
  /-- `LIMIT` ≤ `IBUF_BYTES`. -/
  limit_le : s.limit.toNat ≤ s.params.ibufBytes
  /-- `ILEN` ≤ `IBUF_BYTES`. -/
  ilen_le : s.ilen.toNat ≤ s.params.ibufBytes
  /-- `OLEN` ≤ `OBUF_BYTES`. -/
  olen_le : s.olen.toNat ≤ s.params.obufBytes
  /-- `SLEN` ≤ `SECRET_MAX`. -/
  slen_le : s.slen.toNat ≤ s.params.secretMax
  /-- `LLEN` ≤ 27. -/
  llen_le : s.llen.toNat ≤ 27
  /-- A slot whose valid bit is 0 holds all zero bytes. -/
  pmk_zero : s.slotValid .pmk = false → s.pmk = 0
  sek_zero : s.slotValid .sek = false → s.sek = 0
  smk_zero : s.slotValid .smk = false → s.smk = 0
  /-- So does `GKEY` when `GKEYV` = 0. -/
  gkey_zero : s.gkeyValid = false → s.gkey = 0
  /-- An open builder's fields fit its descriptor (R36, R44, R50). -/
  open_fits : s.builderOpen = true → ∃ d, s.desc s.builderId = some d ∧ FieldsFit d s.fs
  /-- When no builder is open, `SSEL` is 0 and FS holds nothing (R36, R44). -/
  closed_empty : s.builderOpen = false → s.ssel = 0 ∧ s.fs = []
  /-- The sum of all `|FS[f]|` is at most `FS_BYTES`. -/
  fs_total : s.fsTotal ≤ s.params.fsBytes
  /-- `STATUS.ERR` ≠ 0 implies `OLEN` = 0 and `RES` = 0. -/
  err_empty : s.err ≠ 0 → s.olen = 0 ∧ s.res = 0
  /-- Codes 17 to 255 are never written and `STATUS[31:8]` = 0 (R25, R246). -/
  status_le : s.status.toNat ≤ 16
  /-- `ESTICKY` bit 0 and bits 31 to 17 are 0 (R27). -/
  esticky_reserved : s.esticky &&& 0xFFFE0001#32 = 0
  /-- `CFG` holds legal fields only (R28). -/
  cfg_reserved : s.cfg &&& 0xFFFFFEF0#32 = 0
  prov_legal : s.prov = 0 ∨ s.prov = 1
  ord_legal : s.ord ≠ 3
  /-- `KSTAT[31:4]` = 0 (R29). -/
  kstat_reserved : s.kstat &&& 0xFFFFFFF0#32 = 0
  /-- `SSEL[31:9]` = 0 (R36). -/
  ssel_reserved : s.ssel &&& 0xFFFFFE00#32 = 0
  /-- The buffers are in canonical form and within their capacities (R38 to R41). -/
  ibuf_ok : BufferOk s.ibuf s.params.ibufBytes
  obuf_ok : BufferOk s.obuf s.params.obufBytes
  secret_ok : BufferOk s.secret s.params.secretMax
  lbuf_ok : BufferOk s.lbuf 27

/-! ### Parsing (R139, R141) -/

/-- The count of bytes a field takes: its size, or the number its length field, already read, holds (R141). -/
def fieldCount (x : FieldDesc) (values : List Bytes) : Nat :=
  match x.kind with
  | .fixed size => size
  | .len size _ => size
  | .var lf => intBE (values.getD lf [])

/-- The read phase of R139 has read the first `values.length` fields of `d` from `input` without a failure: each
value is the wire bytes at the field's offset, converted. -/
def ReadSoFar (actor : Actor) (d : Descriptor) (input : Bytes) (values : List Bytes) : Prop :=
  values.length ≤ d.length ∧
    ∀ (f : Nat) (x : FieldDesc), f < values.length → d[f]? = some x →
      let p := ((values.take f).map List.length).sum
      let k := fieldCount x (values.take f)
      p + k ≤ input.length ∧
        ((∃ lf, x.kind = .var lf) → f + 1 = d.length → input.length - p = k) ∧
        values.getD f [] = conv actor x ((input.drop p).take k)

/-- Every field that has an allow-list holds an allowed value (R142). -/
def MagicAllowed (d : Descriptor) (values : List Bytes) : Prop :=
  ∀ (f : Nat) (x : FieldDesc) (allowed : List Nat), d[f]? = some x → x.magic = some allowed →
    intBE (values.getD f []) ∈ allowed

/-! ### The host port (20_memory.md R61 to R65) -/

/-- A byte access lies in one of the four buffer windows of R61. -/
def InBufferWindow (p : Params) (a : Nat) : Prop :=
  (0x10000 ≤ a ∧ a < 0x10000 + p.ibufBytes) ∨ (0x20000 ≤ a ∧ a < 0x20000 + p.obufBytes) ∨
    (0x30000 ≤ a ∧ a < 0x30000 + p.secretMax) ∨ (0x30100 ≤ a ∧ a < 0x3011B)

/-- R65: misaligned, of the wrong width for its region, or to an unmapped address. -/
def IllegalTransaction (p : Params) (a : HostAction) : Prop :=
  match a with
  | .read32 addr => ¬(addr.toNat < 0x50 ∧ addr.toNat % 4 = 0)
  | .write32 addr _ => ¬(addr.toNat < 0x50 ∧ addr.toNat % 4 = 0)
  | .read8 addr => ¬InBufferWindow p addr.toNat
  | .write8 addr _ => ¬InBufferWindow p addr.toNat
  | .reset => False

/-- A write to `CMD` of the command `i`. -/
def commands (a : HostAction) (i : Instr) : Prop := a = .write32 0x00000#20 (encode i)

end Sys2Proof.Safety
end

