-- ==== Sys2Proof/Certificates/Slice0/Obligations.lean ====
section
/-! DEFINITION. The statements for the provers. Rule numbers R<n> are those of spec/; log entry numbers are those of
notes/assumptions/. -/

open Sys2Proof Sys2Proof.Machine Sys2Proof.Safety

/-! ### Encoding (30_encoding.md) -/

/-- R86 to R92: decoding an encoded command gives it back, with every operand at every value. -/
def Obligations.DecodeOfEncodeIsTheCommand : Prop := ∀ i : Instr, decode (encode i) = .ok i

/-- R94: a word that is a command is the word of that command and of no other. -/
def Obligations.EncodeOfDecodeIsTheWord : Prop := ∀ (w : Word) (i : Instr), decode w = .ok i → encode i = w

/-- R94, R95: the words that decode are those that satisfy a row of the opcode table and carry no reserved selector. -/
def Obligations.DecodeAcceptsExactlyLegalWords : Prop := ∀ w : Word, (∃ i, decode w = .ok i) ↔ legalWord w = true

/-- R94: at most one row of the opcode table matches a word. -/
def Obligations.OpcodeRowsAreDisjoint : Prop :=
  ∀ (w : Word) (r r' : OpcodeRow), r ∈ opcodeTable → r' ∈ opcodeTable → r.selects w = true → r'.selects w = true →
    r = r'

/-- R96, R98: words written out in the spec. -/
def Obligations.SpecWordsDecode : Prop :=
  decode 0x00000000 = .ok .nop ∧ decode 0xFFFFFFFF = .error .unknownOpcode ∧
  decode 0x12020000 = .ok (.curRd32 .little) ∧ decode 0x13000014 = .ok (.curRdn 20) ∧
  decode 0x20020100 = .ok (.emapGet 2 1 .firmware) ∧ decode 0x26020001 = .ok (.stParse 2 .service) ∧
  decode 0x44000003 = .ok (.keyRd .smk)

/-! ### The host port and the step (20_memory.md; 10_state.md R24 to R49) -/

/-- R24, R75: a write to `CMD` of a word that is a command executes it, on the state the host's action leaves
(`pending` and `answer` are the model's own: log entries 5 and 6). -/
def Obligations.StepRunsTheDecodedCommand : Prop :=
  ∀ (s : State) (rest : List HostAction) (w : Word) (i : Instr),
    s.pending = .write32 0x00000#20 w :: rest → decode w = .ok i →
      step s = exec i { s with pending := rest, answer := .done }

/-- R95, R246: a write to `CMD` of an illegal word ends with `E_ILLCMD` (13), `EINFO0` the word, and changes nothing
else (R250). -/
def Obligations.IllegalWordFaults : Prop :=
  ∀ (s : State) (rest : List HostAction) (w : Word),
    s.pending = .write32 0x00000#20 w :: rest → legalWord w = false →
      step s = .next { s with
        pending := rest, answer := .done, status := 13, einfo0 := w, einfo1 := 0, einfo2 := 0
        esticky := s.esticky ||| (1#32 <<< 13), olen := 0, res := 0 }

/-- R61, R63, R66: a 32-bit read at a register's address answers the register and changes nothing; `CMD` reads 0. -/
def Obligations.RegisterReadsAnswerTheRegister : Prop :=
  ∀ (s : State) (rest : List HostAction),
    let reads := fun (addr : BitVec 20) (v : Word) =>
      step { s with pending := .read32 addr :: rest } = .next { s with pending := rest, answer := .data v }
    reads 0x00000 0 ∧ reads 0x00004 s.status ∧ reads 0x00008 s.einfo0 ∧ reads 0x0000C s.einfo1 ∧
    reads 0x00010 s.einfo2 ∧ reads 0x00014 s.esticky ∧ reads 0x00018 s.cfg ∧ reads 0x0001C s.kstat ∧
    reads 0x00020 s.ilen ∧ reads 0x00024 s.olen ∧ reads 0x00028 s.pos ∧ reads 0x0002C s.limit ∧
    reads 0x00030 s.res ∧ reads 0x00034 s.slen ∧ reads 0x00038 s.llen ∧ reads 0x0003C s.ssel ∧
    reads 0x00040 s.hcode ∧ reads 0x00044 s.hlen ∧ reads 0x00048 s.hclient ∧ reads 0x0004C s.hid

/-- R49, with R27, R28, R30, R34, R35, R37: what a 32-bit write to each register other than `CMD` does. -/
def Obligations.RegisterWritesActAsListed : Prop :=
  ∀ (s : State) (rest : List HostAction) (v : Word),
    let after := fun (addr : BitVec 20) (t : State) =>
      step { s with pending := .write32 addr v :: rest } = .next { t with pending := rest, answer := .done }
    after 0x00014 { s with esticky := s.esticky &&& ~~~v } ∧
    (∃ c : Word, after 0x00018 { s with cfg := c } ∧
      c.extractLsb' 0 2 = (if v.extractLsb' 0 2 = 1#2 then 1#2 else 0#2) ∧
      c.extractLsb' 2 2 = (if v.extractLsb' 2 2 = 3#2 then 0#2 else v.extractLsb' 2 2) ∧
      c.getLsbD 8 = v.getLsbD 8 ∧ c &&& 0xFFFFFEF0#32 = 0) ∧
    after 0x00020 { s with ilen := if v.toNat ≤ s.params.ibufBytes then v else s.ilen } ∧
    after 0x00034 { s with slen := if v.toNat ≤ s.params.secretMax then v else s.slen } ∧
    after 0x00038 { s with llen := if v.toNat ≤ 27 then v else s.llen } ∧
    after 0x00040 { s with hcode := v } ∧ after 0x00044 { s with hlen := v } ∧
    after 0x00048 { s with hclient := v } ∧ after 0x0004C { s with hid := v } ∧
    after 0x00004 s ∧ after 0x00008 s ∧ after 0x0000C s ∧ after 0x00010 s ∧ after 0x0001C s ∧ after 0x00024 s ∧
    after 0x00028 s ∧ after 0x0002C s ∧ after 0x00030 s ∧ after 0x0003C s

/-- R64, R39, R40: an 8-bit read in a window answers the byte; OBUF reads 0x00 at and above `OLEN`, SECRET always. -/
def Obligations.BufferReadsAnswerTheByte : Prop :=
  ∀ (s : State) (rest : List HostAction) (i : Nat),
    let reads := fun (addr : Nat) (b : Byte) =>
      step { s with pending := .read8 (BitVec.ofNat 20 addr) :: rest } =
        .next { s with pending := rest, answer := .data (b.zeroExtend 32) }
    (i < s.params.ibufBytes → reads (0x10000 + i) (s.ibuf.read i)) ∧
    (i < s.params.obufBytes → i < s.olen.toNat → reads (0x20000 + i) (s.obuf.read i)) ∧
    (i < s.params.obufBytes → s.olen.toNat ≤ i → reads (0x20000 + i) 0) ∧
    (i < s.params.secretMax → reads (0x30000 + i) 0) ∧
    (i < 27 → reads (0x30100 + i) (s.lbuf.read i))

/-- R64, R38 to R41: an 8-bit write in a window stores the byte and leaves every other byte; a write to OBUF is
ignored. -/
def Obligations.BufferWritesStoreTheByte : Prop :=
  ∀ (s : State) (rest : List HostAction) (i : Nat) (v : Byte),
    let writes := fun (addr : Nat) (t : State) =>
      step { s with pending := .write8 (BitVec.ofNat 20 addr) v :: rest } =
        .next { t with pending := rest, answer := .done }
    let stores := fun (m m' : Memory) => m'.read i = v ∧ ∀ k : Nat, k ≠ i → m'.read k = m.read k
    (i < s.params.ibufBytes → ∃ m, writes (0x10000 + i) { s with ibuf := m } ∧ stores s.ibuf m) ∧
    (i < s.params.obufBytes → writes (0x20000 + i) s) ∧
    (i < s.params.secretMax → ∃ m, writes (0x30000 + i) { s with secret := m } ∧ stores s.secret m) ∧
    (i < 27 → ∃ m, writes (0x30100 + i) { s with lbuf := m } ∧ stores s.lbuf m)

/-- R65: the transactions that end in a bus error, and so in a refusal of the model, are exactly the illegal ones (log
entry 8). -/
def Obligations.IllegalTransactionsAreRefused : Prop :=
  ∀ (s : State) (a : HostAction) (rest : List HostAction), s.pending = a :: rest →
    (step s = .refused .busError ↔ IllegalTransaction s.params a)

/-! ### Invariants and rules about the whole machine -/

/-- R50, with R25 to R29 and R36 on reserved bits: every step keeps the invariants. -/
def Obligations.StepKeepsInvariant : Prop := ∀ s t : State, Invariants s → step s = .next t → Invariants t

/-- R50 holds of the state after reset. -/
def Obligations.ResetMeetsInvariant : Prop := Invariants State.reset

/-- R51: every piece of the block's state after reset. The fields that are the model's own (log entries 1, 4 to 6) are
not spoken of. -/
def Obligations.ResetStateIsTheTable : Prop :=
  let s := State.reset
  s.status = 0 ∧ s.einfo0 = 0 ∧ s.einfo1 = 0 ∧ s.einfo2 = 0 ∧ s.esticky = 0 ∧ s.cfg = 0 ∧ s.kstat = 0 ∧
  s.ilen = 0 ∧ s.olen = 0 ∧ s.pos = 0 ∧ s.limit = 0 ∧ s.res = 0 ∧ s.slen = 0 ∧ s.llen = 0 ∧ s.ssel = 0 ∧
  s.hcode = 0 ∧ s.hlen = 0 ∧ s.hclient = 0 ∧ s.hid = 0 ∧
  (∀ a : Nat, s.ibuf.read a = 0 ∧ s.lbuf.read a = 0 ∧ s.secret.read a = 0) ∧
  s.pmk = 0 ∧ s.sek = 0 ∧ s.smk = 0 ∧ s.gkey = 0 ∧ s.fs = []

/-- R280: the reset input puts every piece of the block's state at its reset value, whatever it was; R281: the
parameters stay. That the host's remaining actions and the `RNG` environment stay is the model's choice (log entries 12
and 17). -/
def Obligations.ResetInputResetsTheBlock : Prop :=
  ∀ (s : State) (rest : List HostAction), s.pending = .reset :: rest →
    step s = .next { State.resetWith s.params with
      pending := rest, answer := .idle, rngTape := s.rngTape, rngCount := s.rngCount }

/-- R19, R281: no step changes the parameters. -/
def Obligations.StepKeepsParameters : Prop := ∀ s t : State, step s = .next t → t.params = s.params

/-- R245: every command, in every state, completes. -/
def Obligations.EveryCommandCompletes : Prop := ∀ (i : Instr) (s : State), ∃ t, exec i s = .next t

/-- R250 and R246: a faulting command changes nothing but `STATUS`, `EINFO0..2`, `ESTICKY`, `OLEN` and `RES`; its code
is one of 1 to 16 and never `E_KDF` (R176). -/
def Obligations.FaultsArePrecise : Prop :=
  ∀ (i : Instr) (s t : State), exec i s = .next t → t.err ≠ 0 →
    t = { s with
      status := t.err.zeroExtend 32, einfo0 := t.einfo0, einfo1 := t.einfo1, einfo2 := t.einfo2
      esticky := s.esticky ||| (1#32 <<< t.err.toNat), olen := 0, res := 0 } ∧
    t.err.toNat ≤ 16 ∧ t.err ≠ 10

/-- R249: a command that ends OK writes 0 to `EINFO0..2` and, unless it is SRST, leaves `ESTICKY`. -/
def Obligations.OkCompletionClearsInformation : Prop :=
  ∀ (i : Instr) (s t : State), exec i s = .next t → t.err = 0 →
    t.status = 0 ∧ t.einfo0 = 0 ∧ t.einfo1 = 0 ∧ t.einfo2 = 0 ∧ (i ≠ .srst → t.esticky = s.esticky)

/-- R28, R30, R38, R41: no command but SRST writes `CFG`, `ILEN`, `LLEN`, IBUF or LBUF. -/
def Obligations.CommandsLeaveHostInputs : Prop :=
  ∀ (i : Instr) (s t : State), exec i s = .next t → i ≠ .srst →
    t.cfg = s.cfg ∧ t.ilen = s.ilen ∧ t.llen = s.llen ∧ t.ibuf = s.ibuf ∧ t.lbuf = s.lbuf

/-- R32, R36, R44, R37: the cursor, the builder and the header registers are written by their own commands only. -/
def Obligations.StateHasItsOwnWriters : Prop :=
  ∀ (i : Instr) (s t : State), exec i s = .next t → i ≠ .srst →
    ((i ≠ .curWrap ∧ (∀ o, i ≠ .curRd16 o) ∧ (∀ o, i ≠ .curRd32 o) ∧ (∀ n, i ≠ .curRdn n) ∧ (∀ n, i ≠ .curRdx n) ∧
        (∀ n, i ≠ .curSkip n) ∧ (∀ n, i ≠ .curSeek n)) → t.pos = s.pos ∧ t.limit = s.limit) ∧
    (((∀ x, i ≠ .stNew x) ∧ (∀ f, i ≠ .stSetf f) ∧ (∀ x a, i ≠ .stParse x a)) → t.fs = s.fs ∧ t.ssel = s.ssel) ∧
    ((i ≠ .hdrParse ∧ i ≠ .hdrParset) →
      t.hcode = s.hcode ∧ t.hlen = s.hlen ∧ t.hclient = s.hclient ∧ t.hid = s.hid)

/-- R42, R172: a slot is written at most once between two clearings: while its valid bit is 1 no command but KCLR and
SRST changes it, and while it is 0 only its own derivation does. -/
def Obligations.KeySlotsAreWriteOnce : Prop :=
  ∀ (i : Instr) (s t : State), exec i s = .next t → i ≠ .srst → i ≠ .kclr →
    (s.slotValid .pmk = true ∨ i ≠ .kdfPmk → t.pmk = s.pmk ∧ t.slotValid .pmk = s.slotValid .pmk) ∧
    (s.slotValid .sek = true ∨ i ≠ .kdfSek → t.sek = s.sek ∧ t.slotValid .sek = s.slotValid .sek) ∧
    (s.slotValid .smk = true ∨ i ≠ .kdfSmk → t.smk = s.smk ∧ t.slotValid .smk = s.slotValid .smk)

/-- R27: a sticky bit, once set, stays set until the host writes 1 to it, or until reset (the input or SRST). -/
def Obligations.StickyBitsStay : Prop :=
  ∀ (s t : State) (k : Nat), step s = .next t → s.esticky.getLsbD k = true →
    (∀ a, s.pending.head? = some a →
      a ≠ .reset ∧ ¬commands a .srst ∧ ∀ v, a = .write32 0x00014#20 v → v.getLsbD k = false) →
    t.esticky.getLsbD k = true

/-- R43: `GKEY` is read by GCM.ENC and GCM.DEC only. Two runs that differ in `GKEY` alone, of anything the host can do
but those two commands, give it the same answer and states that differ in `GKEY` alone. -/
def Obligations.CipherKeyIsNeverShown : Prop :=
  ∀ (s t : State) (k : BitVec 256), step s = .next t →
    (∀ a, s.pending.head? = some a → ¬commands a .gcmEnc ∧ ¬commands a .gcmDec) →
    ∃ k', step { s with gkey := k } = .next { t with gkey := k' }

/-! ### System commands (45_system.md) -/

/-- R206: NOP does nothing but complete. -/
def Obligations.NopOnlyCompletes : Prop := encode .nop = 0x00000000#32 ∧ ∀ s : State, EndsOk .nop s s 0

/-- R207, R51: SRST puts every piece of the block's state at its reset value and completes. The parameters and the
environment stay (R281, log entry 12). -/
def Obligations.SrstResetsTheBlock : Prop :=
  encode .srst = 0x01000000#32 ∧
  ∀ s : State, ∃ t, exec .srst s = .next t ∧
    t.status = 0 ∧ t.einfo0 = 0 ∧ t.einfo1 = 0 ∧ t.einfo2 = 0 ∧ t.esticky = 0 ∧ t.cfg = 0 ∧ t.kstat = 0 ∧
    t.ilen = 0 ∧ t.olen = 0 ∧ t.pos = 0 ∧ t.limit = 0 ∧ t.res = 0 ∧ t.slen = 0 ∧ t.llen = 0 ∧ t.ssel = 0 ∧
    t.hcode = 0 ∧ t.hlen = 0 ∧ t.hclient = 0 ∧ t.hid = 0 ∧ t.ibuf = [] ∧ t.obuf = [] ∧ t.secret = [] ∧ t.lbuf = [] ∧
    t.pmk = 0 ∧ t.sek = 0 ∧ t.smk = 0 ∧ t.gkey = 0 ∧ t.fs = [] ∧ t.params = s.params

/-- R208: KCLR zeroes the slots, `GKEY`, SECRET, `SLEN` and `KSTAT`, and touches nothing else. -/
def Obligations.KclrClearsTheKeys : Prop :=
  encode .kclr = 0x02000000#32 ∧
  ∀ s : State, ∃ m : Memory, (∀ a : Nat, m.read a = 0) ∧
    EndsOk .kclr s { s with pmk := 0, sek := 0, smk := 0, gkey := 0, secret := m, slen := 0, kstat := 0 } 0

/-! ### Cursor commands (40_cursor.md) -/

/-- R107: CUR.WRAP. -/
def Obligations.CurWrapStartsTheCursor : Prop :=
  encode .curWrap = 0x10000000#32 ∧
  ∀ s : State, EndsOk .curWrap s { s with limit := s.ilen, pos := 0 } 0

/-- R108, R106: CUR.RD16, both orders, and its underrun. -/
def Obligations.CurRd16ReadsTwoBytes : Prop :=
  encode (.curRd16 .persistent) = 0x11000000#32 ∧ encode (.curRd16 .big) = 0x11010000#32 ∧
  encode (.curRd16 .little) = 0x11020000#32 ∧
  ∀ (s : State) (o : ReadOrder),
    let remaining := s.limit.toNat - s.pos.toNat
    let b := fun k : Nat => (s.ibuf.read (s.pos.toNat + k)).toNat
    (remaining < 2 → EndsWithFault (.curRd16 o) s 1 remaining 2 0) ∧
    (2 ≤ remaining → o = .big ∨ (o = .persistent ∧ s.cfg.getLsbD 8 = false) →
      EndsOk (.curRd16 o) s { s with pos := s.pos + 2 } (BitVec.ofNat 32 (b 0 * 256 + b 1))) ∧
    (2 ≤ remaining → o = .little ∨ (o = .persistent ∧ s.cfg.getLsbD 8 = true) →
      EndsOk (.curRd16 o) s { s with pos := s.pos + 2 } (BitVec.ofNat 32 (b 1 * 256 + b 0)))

/-- R109, R106: CUR.RD32, both orders, and its underrun. -/
def Obligations.CurRd32ReadsFourBytes : Prop :=
  encode (.curRd32 .persistent) = 0x12000000#32 ∧ encode (.curRd32 .big) = 0x12010000#32 ∧
  encode (.curRd32 .little) = 0x12020000#32 ∧
  ∀ (s : State) (o : ReadOrder),
    let remaining := s.limit.toNat - s.pos.toNat
    let b := fun k : Nat => (s.ibuf.read (s.pos.toNat + k)).toNat
    (remaining < 4 → EndsWithFault (.curRd32 o) s 1 remaining 4 0) ∧
    (4 ≤ remaining → o = .big ∨ (o = .persistent ∧ s.cfg.getLsbD 8 = false) →
      EndsOk (.curRd32 o) s { s with pos := s.pos + 4 }
        (BitVec.ofNat 32 (b 0 * 2 ^ 24 + b 1 * 2 ^ 16 + b 2 * 2 ^ 8 + b 3))) ∧
    (4 ≤ remaining → o = .little ∨ (o = .persistent ∧ s.cfg.getLsbD 8 = true) →
      EndsOk (.curRd32 o) s { s with pos := s.pos + 4 }
        (BitVec.ofNat 32 (b 3 * 2 ^ 24 + b 2 * 2 ^ 16 + b 1 * 2 ^ 8 + b 0)))

/-- R110: CUR.RDN and its two faults, in their order. -/
def Obligations.CurRdnCopiesBytes : Prop :=
  ∀ (s : State) (n : BitVec 16),
    encode (.curRdn n) = (0x13000000#32 ||| n.zeroExtend 32) ∧
    let remaining := s.limit.toNat - s.pos.toNat
    (remaining < n.toNat → EndsWithFault (.curRdn n) s 1 remaining n.toNat 0) ∧
    (n.toNat ≤ remaining → s.params.obufBytes < n.toNat →
      EndsWithFault (.curRdn n) s 16 n.toNat s.params.obufBytes 0) ∧
    (n.toNat ≤ remaining → n.toNat ≤ s.params.obufBytes →
      EndsOkWithOutput (.curRdn n) s { s with pos := s.pos + n.zeroExtend 32 }
        (s.ibuf.readBytes s.pos.toNat n.toNat))

/-- R111: CUR.RDX and its three faults, in their order. -/
def Obligations.CurRdxReadsExactly : Prop :=
  ∀ (s : State) (n : BitVec 16),
    encode (.curRdx n) = (0x14000000#32 ||| n.zeroExtend 32) ∧
    let remaining := s.limit.toNat - s.pos.toNat
    (remaining < n.toNat → EndsWithFault (.curRdx n) s 1 remaining n.toNat 0) ∧
    (n.toNat < remaining → EndsWithFault (.curRdx n) s 2 remaining n.toNat 0) ∧
    (n.toNat = remaining → s.params.obufBytes < n.toNat →
      EndsWithFault (.curRdx n) s 16 n.toNat s.params.obufBytes 0) ∧
    (n.toNat = remaining → n.toNat ≤ s.params.obufBytes →
      EndsOkWithOutput (.curRdx n) s { s with pos := s.pos + n.zeroExtend 32 }
        (s.ibuf.readBytes s.pos.toNat n.toNat))

/-- R112, R113: CUR.SKIP and CUR.SEEK, with the fault beyond `LIMIT`. -/
def Obligations.CurSkipAndSeekMove : Prop :=
  ∀ (s : State) (n : BitVec 16),
    encode (.curSkip n) = (0x15000000#32 ||| n.zeroExtend 32) ∧
    encode (.curSeek n) = (0x16000000#32 ||| n.zeroExtend 32) ∧
    (s.limit.toNat < s.pos.toNat + n.toNat →
      EndsWithFault (.curSkip n) s 3 (s.pos.toNat + n.toNat) s.limit.toNat 0) ∧
    (s.pos.toNat + n.toNat ≤ s.limit.toNat → EndsOk (.curSkip n) s { s with pos := s.pos + n.zeroExtend 32 } 0) ∧
    (s.limit.toNat < n.toNat → EndsWithFault (.curSeek n) s 3 n.toNat s.limit.toNat 0) ∧
    (n.toNat ≤ s.limit.toNat → EndsOk (.curSeek n) s { s with pos := n.zeroExtend 32 } 0)

/-! ### Conversion table and structure codec (41_codec.md) -/

/-- R122, R121: EMAP.GET: 1 for CONVERT, 0 for NONE, and its two faults. -/
def Obligations.EmapGetAnswersTheDecision : Prop :=
  ∀ (s : State) (t f : BitVec 8) (a : Actor),
    encode (.emapGet t f a) = (0x20000000#32 ||| (t.zeroExtend 32 <<< 16) ||| (f.zeroExtend 32 <<< 8) |||
      (if a = .service then 1 else 0)) ∧
    (s.params.structRom.lookup t = none → EndsWithFault (.emapGet t f a) s 14 1 t.toNat 0) ∧
    ∀ d : Descriptor, s.params.structRom.lookup t = some d →
      (d.length ≤ f.toNat → EndsWithFault (.emapGet t f a) s 14 3 f.toNat 0) ∧
      ∀ x : FieldDesc, d[f.toNat]? = some x →
        (a = .firmware ∧ x.fw = .convert → EndsOk (.emapGet t f a) s s 1) ∧
        (a = .service ∨ x.fw ≠ .convert → EndsOk (.emapGet t f a) s s 0)

/-- R123, R121, R124 (a): EMAP.SIZE counts the FIRMWARE entries; the SERVICE map is always empty. -/
def Obligations.EmapSizeCountsTheEntries : Prop :=
  ∀ (s : State) (t : BitVec 8),
    encode (.emapSize t .firmware) = (0x21000000#32 ||| (t.zeroExtend 32 <<< 16)) ∧
    encode (.emapSize t .service) = (0x21000001#32 ||| (t.zeroExtend 32 <<< 16)) ∧
    (s.params.structRom.lookup t = none →
      ∀ a : Actor, EndsWithFault (.emapSize t a) s 14 1 t.toNat 0) ∧
    ∀ d : Descriptor, s.params.structRom.lookup t = some d →
      EndsOk (.emapSize t .service) s s 0 ∧
      EndsOk (.emapSize t .firmware) s s (BitVec.ofNat 32 (d.filter fun x => x.fw ≠ .absent).length)

/-- R126: `conv` is its own inverse and never changes a length, on the values a field can hold; the SERVICE actor
converts nothing, and a variable field is never converted. -/
def Obligations.ConversionUndoesItself : Prop :=
  ∀ (s : State) (t : BitVec 8) (d : Descriptor) (f : Nat) (x : FieldDesc) (a : Actor) (v : Bytes),
    s.params.structRom.lookup t = some d → d[f]? = some x →
    (∀ size, x.kind = .fixed size → v.length = size) → (∀ size g, x.kind = .len size g → v.length = size) →
      conv a x (conv a x v) = v ∧ (conv a x v).length = v.length ∧ conv .service x v = v ∧
      ((∃ lf, x.kind = .var lf) → conv a x v = v)

/-- R127: ST.NEW. -/
def Obligations.StNewOpensAZeroBuilder : Prop :=
  ∀ (s : State) (t : BitVec 8),
    encode (.stNew t) = (0x22000000#32 ||| (t.zeroExtend 32 <<< 16)) ∧
    (s.params.structRom.lookup t = none → EndsWithFault (.stNew t) s 14 1 t.toNat 0) ∧
    ∀ d : Descriptor, s.params.structRom.lookup t = some d →
      ∃ fields : List Bytes,
        EndsOk (.stNew t) s { s with fs := fields, ssel := 0x100#32 ||| t.zeroExtend 32 } 0 ∧
        fields.length = d.length ∧
        ∀ (f : Nat) (x : FieldDesc), d[f]? = some x →
          fields[f]? = some (match x.kind with
            | .fixed size => List.replicate size 0
            | .len size _ => List.replicate size 0
            | .var _ => [])

/-- R128: ST.SETF for every kind of field, with its faults in their order. -/
def Obligations.StSetfWritesOneField : Prop :=
  ∀ (s : State) (f : BitVec 8),
    encode (.stSetf f) = (0x23000000#32 ||| (f.zeroExtend 32 <<< 8)) ∧
    (s.ssel.getLsbD 8 = false → EndsWithFault (.stSetf f) s 14 2 0 0) ∧
    ∀ d : Descriptor, s.ssel.getLsbD 8 = true → s.params.structRom.lookup (s.ssel.extractLsb' 0 8) = some d →
      (d.length ≤ f.toNat → EndsWithFault (.stSetf f) s 14 3 f.toNat 0) ∧
      ∀ x : FieldDesc, d[f.toNat]? = some x →
        (∀ size, x.kind = .fixed size →
          (s.ilen.toNat ≠ size → EndsWithFault (.stSetf f) s 4 f.toNat size s.ilen.toNat) ∧
          (s.ilen.toNat = size → EndsOk (.stSetf f) s { s with fs := s.fs.set f.toNat (s.ibuf.readBytes 0 size) } 0)) ∧
        (∀ size g, x.kind = .len size g → EndsWithFault (.stSetf f) s 14 4 f.toNat 0) ∧
        ∀ lf w g, x.kind = .var lf → d[lf]?.map FieldDesc.kind = some (.len w g) →
          let total := (s.fs.map List.length).sum - (s.fs.getD f.toNat []).length + s.ilen.toNat
          (s.params.fsBytes < total → EndsWithFault (.stSetf f) s 16 total s.params.fsBytes 0) ∧
          (total ≤ s.params.fsBytes →
            EndsOk (.stSetf f) s
              { s with fs := (s.fs.set f.toNat (s.ibuf.readBytes 0 s.ilen.toNat)).set lf (beBytes w s.ilen.toNat) } 0)

/-- R129: ST.GETF puts the logical value of one field in OBUF, with its faults in their order. -/
def Obligations.StGetfReadsOneField : Prop :=
  ∀ (s : State) (f : BitVec 8),
    encode (.stGetf f) = (0x24000000#32 ||| (f.zeroExtend 32 <<< 8)) ∧
    (s.ssel.getLsbD 8 = false → EndsWithFault (.stGetf f) s 14 2 0 0) ∧
    ∀ d : Descriptor, s.ssel.getLsbD 8 = true → s.params.structRom.lookup (s.ssel.extractLsb' 0 8) = some d →
      (d.length ≤ f.toNat → EndsWithFault (.stGetf f) s 14 3 f.toNat 0) ∧
      ∀ v : Bytes, f.toNat < d.length → s.fs[f.toNat]? = some v →
        (s.params.obufBytes < v.length → EndsWithFault (.stGetf f) s 16 v.length s.params.obufBytes 0) ∧
        (v.length ≤ s.params.obufBytes → EndsOkWithOutput (.stGetf f) s s v)

/-- R130, R126: ST.BUILD puts the concatenation of all fields, in wire order, converted, in OBUF, with its faults in
their order. -/
def Obligations.StBuildConcatenatesTheWireValues : Prop :=
  encode (.stBuild .firmware) = 0x25000000#32 ∧ encode (.stBuild .service) = 0x25000001#32 ∧
  ∀ (s : State) (a : Actor),
    (s.ssel.getLsbD 8 = false → EndsWithFault (.stBuild a) s 14 2 0 0) ∧
    ∀ d : Descriptor, s.ssel.getLsbD 8 = true → s.params.structRom.lookup (s.ssel.extractLsb' 0 8) = some d →
      s.fs.length = d.length →
      let out := (List.zipWith
        (fun x v => if a = .firmware ∧ x.fw = .convert then revPrim x.prim v else v) d s.fs).flatten
      (s.params.obufBytes < out.length → EndsWithFault (.stBuild a) s 16 out.length s.params.obufBytes 0) ∧
      (out.length ≤ s.params.obufBytes → EndsOkWithOutput (.stBuild a) s s out)

/-- R139, R141: ST.PARSE of an unknown structure, and at the first field that cannot be read: `E_PARSE` with the bytes
remaining, the bytes wanted, the cause and the field. -/
def Obligations.StParseFaultsAtTheFirstUnreadableField : Prop :=
  ∀ (s : State) (t : BitVec 8) (a : Actor),
    encode (.stParse t a) = (0x26000000#32 ||| (t.zeroExtend 32 <<< 16) ||| (if a = .service then 1 else 0)) ∧
    (s.params.structRom.lookup t = none → EndsWithFault (.stParse t a) s 14 1 t.toNat 0) ∧
    ∀ (d : Descriptor) (values : List Bytes) (x : FieldDesc),
      s.params.structRom.lookup t = some d → ReadSoFar a d s.input values → d[values.length]? = some x →
      let remaining := s.ilen.toNat - (values.map List.length).sum
      let k := fieldCount x values
      (remaining < k → EndsWithFault (.stParse t a) s 5 remaining k (1 + 256 * values.length)) ∧
      (k < remaining → (∃ lf, x.kind = .var lf) → values.length + 1 = d.length →
        EndsWithFault (.stParse t a) s 5 remaining k (2 + 256 * values.length))

/-- R139, R142, R143, R145: ST.PARSE once every field has been read: the first value its allow-list does not hold, then
the bytes left over, then the field store's capacity; otherwise the values are the field store. -/
def Obligations.StParseAfterTheReadPhase : Prop :=
  ∀ (s : State) (t : BitVec 8) (a : Actor) (d : Descriptor) (values : List Bytes),
    s.params.structRom.lookup t = some d → ReadSoFar a d s.input values → values.length = d.length →
    let used := (values.map List.length).sum
    (∀ (f : Nat) (x : FieldDesc) (allowed : List Nat), d[f]? = some x → x.magic = some allowed →
      intBE (values.getD f []) ∉ allowed → MagicAllowed (d.take f) (values.take f) →
        EndsWithFault (.stParse t a) s 6 f (intBE (values.getD f [])) 1) ∧
    (MagicAllowed d values → used < s.ilen.toNat →
      EndsWithFault (.stParse t a) s 6 d.length (s.ilen.toNat - used) 2) ∧
    (MagicAllowed d values → used = s.ilen.toNat → s.params.fsBytes < s.ilen.toNat →
      EndsWithFault (.stParse t a) s 16 s.ilen.toNat s.params.fsBytes 0) ∧
    (MagicAllowed d values → used = s.ilen.toNat → s.ilen.toNat ≤ s.params.fsBytes →
      EndsOk (.stParse t a) s { s with fs := values, ssel := 0x100#32 ||| t.zeroExtend 32 } 0)

/-- R144: the bytes a builder gives for an actor, parsed for the same actor, give its fields back, when every magic
field holds an allowed value. -/
def Obligations.ParseUndoesBuild : Prop :=
  ∀ (s s' u : State) (d : Descriptor) (a : Actor),
    Invariants s → s.builderOpen = true → s.desc s.builderId = some d → MagicAllowed d s.fs →
    exec (.stBuild a) s = .next s' → s'.err = 0 →
    u.params = s.params → u.input = s'.obuf.readBytes 0 s'.olen.toNat →
      EndsOk (.stParse s.builderId a) u { u with fs := s.fs, ssel := s.ssel } 0

/-! ### Command header (42_header.md) -/

/-- R152, R154, R153: HDR.BUILD and HDR.BUILDT: the unmasked header word, most and least significant byte first. -/
def Obligations.HdrBuildPacksTheWord : Prop :=
  encode .hdrBuild = 0x30000000#32 ∧ encode .hdrBuildt = 0x31000000#32 ∧
  ∀ s : State,
    let h := s.params.hdr
    let w : Word := (s.hcode <<< h.code.offset) ||| (s.hlen <<< h.length.offset) |||
      (s.hclient <<< h.client.offset) ||| (s.hid <<< h.id.offset)
    EndsOkWithOutput .hdrBuild s s
      [w.extractLsb' 24 8, w.extractLsb' 16 8, w.extractLsb' 8 8, w.extractLsb' 0 8] ∧
    EndsOkWithOutput .hdrBuildt s s
      [w.extractLsb' 0 8, w.extractLsb' 8 8, w.extractLsb' 16 8, w.extractLsb' 24 8]

/-- R156, R158, R157: HDR.PARSE and HDR.PARSET: each field is the bits of the word at its offset and width; an input
that is not 4 bytes long is a fault. -/
def Obligations.HdrParseExtractsTheFields : Prop :=
  encode .hdrParse = 0x32000000#32 ∧ encode .hdrParset = 0x33000000#32 ∧
  ∀ s : State,
    (s.ilen ≠ 4 → EndsWithFault .hdrParse s 7 s.ilen.toNat 0 0 ∧ EndsWithFault .hdrParset s 7 s.ilen.toNat 0 0) ∧
    (s.ilen = 4 →
      let b := fun k : Nat => (s.ibuf.read k).toNat
      let parses := fun (i : Instr) (w : Nat) =>
        let bits := fun x : HdrField => BitVec.ofNat 32 (w / 2 ^ x.offset % 2 ^ x.width)
        EndsOk i s { s with
          hcode := bits s.params.hdr.code, hlen := bits s.params.hdr.length
          hclient := bits s.params.hdr.client, hid := bits s.params.hdr.id } 0
      parses .hdrParse (b 0 * 2 ^ 24 + b 1 * 2 ^ 16 + b 2 * 2 ^ 8 + b 3) ∧
      parses .hdrParset (b 3 * 2 ^ 24 + b 2 * 2 ^ 16 + b 1 * 2 ^ 8 + b 0))

/-- R159: HDR.VALID looks at CODE only, writes no header register, and has three faults, in their order. -/
def Obligations.HdrValidTestsTheStatus : Prop :=
  encode (.hdrValid .raw) = 0x34000000#32 ∧ encode (.hdrValid .xport) = 0x34000001#32 ∧
  ∀ (s : State) (o : HdrOrder),
    (s.ilen ≠ 4 → EndsWithFault (.hdrValid o) s 7 s.ilen.toNat 0 0) ∧
    (s.ilen = 4 →
      let b := fun k : Nat => (s.ibuf.read k).toNat
      let w := match o with
        | .raw => b 0 * 2 ^ 24 + b 1 * 2 ^ 16 + b 2 * 2 ^ 8 + b 3
        | .xport => b 3 * 2 ^ 24 + b 2 * 2 ^ 16 + b 1 * 2 ^ 8 + b 0
      let status := w / 2 ^ s.params.hdr.code.offset % 2 ^ s.params.hdr.code.width
      (status = s.params.unknownCmdCode.toNat → EndsWithFault (.hdrValid o) s 8 status 0 0) ∧
      (status ≠ s.params.unknownCmdCode.toNat → status ≠ 0 → EndsWithFault (.hdrValid o) s 9 status 0 0) ∧
      (status = 0 → EndsOk (.hdrValid o) s s 0))

/-- R160: for a valid header, parsing what was built restores the four registers, in either order. -/
def Obligations.HeaderParseUndoesBuild : Prop :=
  ∀ (s s' u : State),
    s.hcode.toNat < 2 ^ s.params.hdr.code.width → s.hlen.toNat < 2 ^ s.params.hdr.length.width →
    s.hclient.toNat < 2 ^ s.params.hdr.client.width → s.hid.toNat < 2 ^ s.params.hdr.id.width →
    u.params = s.params → u.ilen = 4 → (∀ k : Nat, k < 4 → u.ibuf.read k = s'.obuf.read k) →
    let restored : State := { u with hcode := s.hcode, hlen := s.hlen, hclient := s.hclient, hid := s.hid }
    (exec .hdrBuild s = .next s' → EndsOk .hdrParse u restored 0) ∧
    (exec .hdrBuildt s = .next s' → EndsOk .hdrParset u restored 0)

/-! ### Key derivation (43_kdf.md) -/

/-- R170, R168, R166: KDF.DERIVE, the block byte by byte, and its two faults, in their order. -/
def Obligations.KdfDeriveOutputsTheDerivation : Prop :=
  ∀ (s : State) (n : BitVec 16),
    encode (.kdfDerive n) = (0x40000000#32 ||| n.zeroExtend 32) ∧
    let label := s.lbuf.readBytes 0 s.llen.toNat
    let block : Bytes := [1, 0, 0, 0] ++ (label ++ List.replicate (27 - label.length) 0) ++ [0] ++
      [0x50, 0x53, 0x47, 0x2D, 0x53, 0x49, 0x47, 0x4D, 0x41, 0, 0, 0, 0, 0, 0, 0] ++ [0, 0, 0, 0] ++
      [BitVec.ofNat 8 (8 * n.toNat), BitVec.ofNat 8 (8 * n.toNat / 256), 0, 0]
    let out := (kdfHmac s.params.kdfHash (s.secret.readBytes 0 s.slen.toNat) block).take n.toNat
    (48 < n.toNat → EndsWithFault (.kdfDerive n) s 14 5 n.toNat 0) ∧
    (n.toNat ≤ 48 → s.slen = 0 → EndsWithFault (.kdfDerive n) s 15 3 0 0) ∧
    (n.toNat ≤ 48 → s.slen ≠ 0 → EndsOkWithOutput (.kdfDerive n) s s out ∧ out.length = n.toNat)

/-- R173 to R175, R169, R172: the named derivations: each writes its slot once, from the secret, under its own label,
and sets its valid bit; a valid slot and a missing secret are faults, in that order. -/
def Obligations.NamedDerivationsWriteTheirSlot : Prop :=
  let label := fun (text : Bytes) => text ++ List.replicate (27 - text.length) 0
  let block := fun (text : Bytes) (bits : Bytes) => ([1, 0, 0, 0] ++ label text ++ [0] ++
      [0x50, 0x53, 0x47, 0x2D, 0x53, 0x49, 0x47, 0x4D, 0x41, 0, 0, 0, 0, 0, 0, 0] ++ [0, 0, 0, 0] ++ bits : Bytes)
  let protocolMac : Bytes := [0x50, 0x52, 0x4F, 0x54, 0x4F, 0x43, 0x4F, 0x4C, 0x20, 0x4D, 0x41, 0x43]
  let sessionEnc : Bytes := [0x53, 0x45, 0x53, 0x53, 0x49, 0x4F, 0x4E, 0x20, 0x45, 0x4E, 0x43]
  let sessionMac : Bytes := [0x53, 0x45, 0x53, 0x53, 0x49, 0x4F, 0x4E, 0x20, 0x4D, 0x41, 0x43]
  encode .kdfPmk = 0x41000000#32 ∧ encode .kdfSek = 0x42000000#32 ∧ encode .kdfSmk = 0x43000000#32 ∧
  ∀ s : State,
    let mac := fun (m : Bytes) => kdfHmac s.params.kdfHash (s.secret.readBytes 0 s.slen.toNat) m
    (s.kstat.getLsbD 0 = true → EndsWithFault .kdfPmk s 15 1 1 0) ∧
    (s.kstat.getLsbD 1 = true → EndsWithFault .kdfSek s 15 1 2 0) ∧
    (s.kstat.getLsbD 2 = true → EndsWithFault .kdfSmk s 15 1 3 0) ∧
    (s.kstat.getLsbD 0 = false → s.slen = 0 → EndsWithFault .kdfPmk s 15 3 0 0) ∧
    (s.kstat.getLsbD 1 = false → s.slen = 0 → EndsWithFault .kdfSek s 15 3 0 0) ∧
    (s.kstat.getLsbD 2 = false → s.slen = 0 → EndsWithFault .kdfSmk s 15 3 0 0) ∧
    (s.kstat.getLsbD 0 = false → s.slen ≠ 0 →
      ∃ k : BitVec 384, beBytes 48 k.toNat = (mac (block protocolMac [0x80, 1, 0, 0])).take 48 ∧
        EndsOk .kdfPmk s { s with pmk := k, kstat := s.kstat ||| 1 } 0) ∧
    (s.kstat.getLsbD 1 = false → s.slen ≠ 0 →
      ∃ k : BitVec 256, beBytes 32 k.toNat = (mac (block sessionEnc [0, 1, 0, 0])).take 32 ∧
        EndsOk .kdfSek s { s with sek := k, kstat := s.kstat ||| 2 } 0) ∧
    (s.kstat.getLsbD 2 = false → s.slen ≠ 0 →
      ∃ k : BitVec 256, beBytes 32 k.toNat = (mac (block sessionMac [0, 1, 0, 0])).take 32 ∧
        EndsOk .kdfSmk s { s with smk := k, kstat := s.kstat ||| 4 } 0)

/-- R177: KEY.RD puts a derived slot in OBUF, 48 bytes for PMK and 32 for SEK and SMK; an empty slot is a fault. -/
def Obligations.KeyRdOutputsTheSlot : Prop :=
  encode (.keyRd .pmk) = 0x44000001#32 ∧ encode (.keyRd .sek) = 0x44000002#32 ∧ encode (.keyRd .smk) = 0x44000003#32 ∧
  ∀ s : State,
    (s.kstat.getLsbD 0 = false → EndsWithFault (.keyRd .pmk) s 15 2 1 0) ∧
    (s.kstat.getLsbD 1 = false → EndsWithFault (.keyRd .sek) s 15 2 2 0) ∧
    (s.kstat.getLsbD 2 = false → EndsWithFault (.keyRd .smk) s 15 2 3 0) ∧
    (s.kstat.getLsbD 0 = true → EndsOkWithOutput (.keyRd .pmk) s s (beBytes 48 s.pmk.toNat)) ∧
    (s.kstat.getLsbD 1 = true → EndsOkWithOutput (.keyRd .sek) s s (beBytes 32 s.sek.toNat)) ∧
    (s.kstat.getLsbD 2 = true → EndsOkWithOutput (.keyRd .smk) s s (beBytes 32 s.smk.toNat))

/-! ### The channel cipher (44_gcm.md) -/

/-- R186: GKEY.LD from both sources, with its faults. -/
def Obligations.GkeyLdLoadsTheKey : Prop :=
  encode (.gkeyLd .ibuf) = 0x50000000#32 ∧ encode (.gkeyLd .sek) = 0x50000001#32 ∧
  ∀ s : State,
    (s.ilen ≠ 32 → EndsWithFault (.gkeyLd .ibuf) s 14 6 s.ilen.toNat 0) ∧
    (s.ilen = 32 → ∃ k : BitVec 256, beBytes 32 k.toNat = s.ibuf.readBytes 0 32 ∧
      EndsOk (.gkeyLd .ibuf) s { s with gkey := k, kstat := s.kstat ||| 8 } 0) ∧
    (s.kstat.getLsbD 1 = false → EndsWithFault (.gkeyLd .sek) s 15 2 2 0) ∧
    (s.kstat.getLsbD 1 = true → EndsOk (.gkeyLd .sek) s { s with gkey := s.sek, kstat := s.kstat ||| 8 } 0)

/-- R187: both cipher commands first report the first missing setting: key (1), provider (2), byte order (3). -/
def Obligations.UnconfiguredCipherFaults : Prop :=
  ∀ (s : State) (i : Instr), i = .gcmEnc ∨ i = .gcmDec →
    (s.kstat.getLsbD 3 = false → EndsWithFault i s 12 1 0 0) ∧
    (s.kstat.getLsbD 3 = true → s.cfg.extractLsb' 0 2 = 0#2 → EndsWithFault i s 12 2 0 0) ∧
    (s.kstat.getLsbD 3 = true → s.cfg.extractLsb' 0 2 ≠ 0#2 → s.cfg.extractLsb' 2 2 = 0#2 → EndsWithFault i s 12 3 0 0)

/-- R190, R188: GCM.ENC of a configured cipher: the frame, for every draw, and the capacity fault, without a draw. The
two environment fields that make the draw a free value are the model's form (log entry 4). -/
def Obligations.GcmEncOutputsTheFrame : Prop :=
  encode .gcmEnc = 0x51000000#32 ∧
  ∀ s : State, s.kstat.getLsbD 3 = true → s.cfg.extractLsb' 0 2 ≠ 0#2 → s.cfg.extractLsb' 2 2 ≠ 0#2 →
    let iv := s.nextDraw
    let c := gctr s.gkey (inc32 (iv ++ 1#32)) (s.ibuf.readBytes 0 s.ilen.toNat)
    let prefixBytes : Bytes := if s.cfg.extractLsb' 2 2 = 1#2 then [0, 0, 0, 12] else [12, 0, 0, 0]
    let out := prefixBytes ++ beBytes 12 iv.toNat ++ c ++ gcmTag s.gkey iv c
    (s.params.obufBytes < s.ilen.toNat + 32 →
      EndsWithFault .gcmEnc s 16 (s.ilen.toNat + 32) s.params.obufBytes 0) ∧
    (s.ilen.toNat + 32 ≤ s.params.obufBytes →
      EndsOkWithOutput .gcmEnc s { s with rngTape := s.rngTape.tail, rngCount := s.rngCount + 1 } out ∧
      out.length = s.ilen.toNat + 32)

/-- R194, R193: GCM.DEC of a configured cipher: the five checks, all with the one fault, the capacity fault between
the shape and the tag, and the plaintext. -/
def Obligations.GcmDecOutputsThePlaintext : Prop :=
  encode .gcmDec = 0x52000000#32 ∧
  ∀ s : State, s.kstat.getLsbD 3 = true → s.cfg.extractLsb' 0 2 ≠ 0#2 → s.cfg.extractLsb' 2 2 ≠ 0#2 →
    let n := s.ilen.toNat
    let b := fun k : Nat => (s.ibuf.read k).toNat
    let declared := if s.cfg.extractLsb' 2 2 = 1#2 then b 0 * 2 ^ 24 + b 1 * 2 ^ 16 + b 2 * 2 ^ 8 + b 3
      else b 3 * 2 ^ 24 + b 2 * 2 ^ 16 + b 1 * 2 ^ 8 + b 0
    let iv : BitVec 96 := BitVec.ofNat 96 (intBE (s.ibuf.readBytes 4 12))
    let c := s.ibuf.readBytes 16 (n - 32)
    let tag := s.ibuf.readBytes (n - 16) 16
    (n < 32 → EndsWithFault .gcmDec s 11 0 0 0) ∧
    (declared ≠ 12 → EndsWithFault .gcmDec s 11 0 0 0) ∧
    (32 ≤ n → declared = 12 → s.params.obufBytes < n - 32 →
      EndsWithFault .gcmDec s 16 (n - 32) s.params.obufBytes 0) ∧
    (32 ≤ n → declared = 12 → n - 32 ≤ s.params.obufBytes → gcmTag s.gkey iv c ≠ tag →
      EndsWithFault .gcmDec s 11 0 0 0) ∧
    (32 ≤ n → declared = 12 → n - 32 ≤ s.params.obufBytes → gcmTag s.gkey iv c = tag →
      EndsOkWithOutput .gcmDec s s (gctr s.gkey (inc32 (iv ++ 1#32)) c))

/-- R196: for every plaintext and every draw, GCM.DEC of the frame GCM.ENC produced ends OK with the plaintext, under
the same key and configuration. -/
def Obligations.DecryptUndoesEncrypt : Prop :=
  ∀ (s s' u : State), exec .gcmEnc s = .next s' → s'.err = 0 →
    u.params = s.params → u.gkey = s.gkey → u.cfg = s.cfg → u.gkeyValid = true →
    u.input = s'.obuf.readBytes 0 s'.olen.toNat →
      EndsOkWithOutput .gcmDec u u s.input

/-- R195: whatever the cause, a failed decryption shows the same: the state after it is one function of the state
before it. -/
def Obligations.DecryptionFailuresLookAlike : Prop :=
  ∀ (s t : State), exec .gcmDec s = .next t → t.err = 11 →
    t = { s with
      status := 11, einfo0 := 0, einfo1 := 0, einfo2 := 0, esticky := s.esticky ||| 0x800#32, olen := 0, res := 0 }

/-! ### The primitives (48_crypto_primitives.md) -/

/-- R226: GCTR is its own inverse. -/
def Obligations.GctrUndoesItself : Prop :=
  ∀ (k : BitVec 256) (icb : Block) (x : Bytes), gctr k icb (gctr k icb x) = x

/-- R223: the block `80 00 ... 00` is the identity of `gfmul`, and `gfmul` distributes over exclusive or in its first
argument. -/
def Obligations.GfmulIsLinearWithIdentity : Prop :=
  (∀ x : Block, gfmul x (1#128 <<< 127) = x ∧ gfmul (1#128 <<< 127) x = x) ∧
  ∀ x x' y : Block, gfmul (x ^^^ x') y = gfmul x y ^^^ gfmul x' y
end

