-- ==== Sys2Proof/Laws/Bytes.lean ====
section
/-! SUPPORT. Integers as bytes and back, lengths, and the primitive reversal. -/

namespace Sys2Proof.Machine

@[simp] theorem beBytes_length (n v : Nat) : (beBytes n v).length = n := by
  induction n with
  | zero => rfl
  | succ k ih => simp [beBytes, ih]

@[simp] theorem leBytes_length (n v : Nat) : (leBytes n v).length = n := by simp [leBytes]

@[simp] theorem writeInt4_length (o : ByteOrder) (v : Nat) : (writeInt4 o v).length = 4 := by
  cases o <;> simp [writeInt4]

@[simp] theorem zeros_length (n : Nat) : (zeros n).length = n := by simp [zeros]

@[simp] theorem xorBytes_length (a b : Bytes) : (xorBytes a b).length = min a.length b.length := by simp [xorBytes]

@[simp] theorem revPrim_length (p : Nat) (v : Bytes) : (revPrim p v).length = v.length := by simp [revPrim]

/-- `be_n` depends on the low `n` bytes of the value only. -/
theorem beBytes_add_mul (n v w : Nat) : beBytes n (v + w * 256 ^ n) = beBytes n v := by
  induction n generalizing w with
  | zero => rfl
  | succ k ih =>
    have hw : v + w * 256 ^ (k + 1) = v + (w * 256) * 256 ^ k := by ring
    have hd : (v + w * 256 * 256 ^ k) / 256 ^ k = v / 256 ^ k + w * 256 :=
      Nat.add_mul_div_right _ _ (by positivity)
    simp only [beBytes, hw, ih, hd]
    congr 1
    apply BitVec.eq_of_toNat_eq
    simp [Nat.add_mod]

theorem beBytes_mod (n v : Nat) : beBytes n (v % 256 ^ n) = beBytes n v := by
  conv_rhs => rw [← Nat.mod_add_div v (256 ^ n), Nat.mul_comm]
  exact (beBytes_add_mul n _ _).symm

/-- The first byte of `be_(n+1)` is the most significant one. -/
theorem beBytes_succ (n v : Nat) : beBytes (n + 1) v = BitVec.ofNat 8 (v / 256 ^ n) :: beBytes n v := rfl

theorem intBE_append (s t : Bytes) : intBE (s ++ t) = intBE s * 256 ^ t.length + intBE t := by
  have key : ∀ (t : Bytes) (a : Nat), t.foldl (fun acc b => acc * 256 + b.toNat) a =
      a * 256 ^ t.length + t.foldl (fun acc b => acc * 256 + b.toNat) 0 := by
    intro t
    induction t with
    | nil => simp
    | cons b t ih =>
      intro a
      rw [List.foldl_cons, List.foldl_cons, ih, ih (0 * 256 + b.toNat), List.length_cons]
      ring
  simp only [intBE, List.foldl_append]
  exact key t _

theorem intBE_cons (b : Byte) (t : Bytes) : intBE (b :: t) = b.toNat * 256 ^ t.length + intBE t := by
  have h := intBE_append [b] t
  simpa [intBE] using h

theorem intBE_lt (s : Bytes) : intBE s < 256 ^ s.length := by
  induction s with
  | nil => simp [intBE]
  | cons b t ih =>
    rw [intBE_cons, List.length_cons, pow_succ]
    have : b.toNat < 256 := b.isLt
    nlinarith

/-- `int_be` undoes `be_n` (R11). -/
theorem intBE_beBytes (n v : Nat) (h : v < 256 ^ n) : intBE (beBytes n v) = v := by
  induction n generalizing v with
  | zero => simp at h; simp [beBytes, intBE, h]
  | succ k ih =>
    have hp : 0 < 256 ^ k := by positivity
    have hq : v / 256 ^ k < 256 := by
      rw [Nat.div_lt_iff_lt_mul hp]; rw [pow_succ] at h; linarith
    rw [beBytes_succ, intBE_cons, ← beBytes_mod, ih _ (Nat.mod_lt _ hp)]
    simp only [BitVec.toNat_ofNat, beBytes_length, Nat.mod_eq_of_lt hq]
    rw [Nat.mul_comm]; exact Nat.div_add_mod v _

/-- `be_n` undoes `int_be` (R11). -/
theorem beBytes_intBE (s : Bytes) : beBytes s.length (intBE s) = s := by
  induction s with
  | nil => rfl
  | cons b t ih =>
    have hlt := intBE_lt t
    rw [intBE_cons, List.length_cons, beBytes_succ, Nat.add_comm, beBytes_add_mul, ih]
    congr 1
    have : (intBE t + b.toNat * 256 ^ t.length) / 256 ^ t.length = b.toNat := by
      rw [Nat.add_mul_div_right _ _ (by positivity), Nat.div_eq_of_lt hlt, Nat.zero_add]
    rw [this]
    simp

theorem beBytes_intBE_of_length {n : Nat} {s : Bytes} (h : s.length = n) : beBytes n (intBE s) = s :=
  h ▸ beBytes_intBE s

/-- A register of `8n` bits holds `n` bytes exactly: what is read back is what was written. -/
theorem beBytes_ofNat_intBE {n : Nat} {s : Bytes} (h : s.length = n) :
    beBytes n (BitVec.ofNat (8 * n) (intBE s)).toNat = s := by
  have hlt : intBE s < 2 ^ (8 * n) := by
    have := intBE_lt s
    rwa [h, show (256 : Nat) = 2 ^ 8 from rfl, ← pow_mul] at this
  rw [BitVec.toNat_ofNat, Nat.mod_eq_of_lt hlt, beBytes_intBE_of_length h]

theorem zeros_eq_beBytes (n : Nat) : zeros n = beBytes n 0 := by
  induction n with
  | zero => rfl
  | succ k ih => rw [beBytes_succ, ← ih]; simp [zeros, List.replicate_succ]

/-- `readInt` undoes `writeInt4`. -/
theorem readInt_writeInt4 (o : ByteOrder) (v : Nat) (h : v < 256 ^ 4) : readInt o (writeInt4 o v) = v := by
  cases o <;> simp [readInt, writeInt4, intLE, leBytes, intBE_beBytes 4 v h]

/-! ### Primitive reversal (R12) -/

theorem revPrim_getElem (p : Nat) (v : Bytes) (i : Nat) (h : i < (revPrim p v).length) :
    (revPrim p v)[i] = v.getD (p * (i / p) + (p - 1 - i % p)) 0 := by simp [revPrim]

/-- Reversing the primitives twice changes nothing (R12), when the primitive width divides the length. -/
theorem revPrim_revPrim (p : Nat) (v : Bytes) (hp : 1 ≤ p) (hd : v.length % p = 0) :
    revPrim p (revPrim p v) = v := by
  apply List.ext_getElem (by simp)
  intro i h1 h2
  have hmod : i % p < p := Nat.mod_lt _ hp
  have hq : i / p < v.length / p := by
    apply Nat.div_lt_of_lt_mul
    rw [Nat.mul_div_cancel' (Nat.dvd_of_mod_eq_zero hd)]; exact h2
  have hj : p * (i / p) + (p - 1 - i % p) < v.length := by
    have h3 : p * (i / p + 1) ≤ p * (v.length / p) := Nat.mul_le_mul_left _ hq
    rw [Nat.mul_div_cancel' (Nat.dvd_of_mod_eq_zero hd)] at h3
    rw [Nat.mul_add] at h3
    omega
  have hdiv : (p * (i / p) + (p - 1 - i % p)) / p = i / p := by
    rw [Nat.mul_add_div hp, Nat.div_eq_of_lt (show p - 1 - i % p < p by omega), Nat.add_zero]
  have hrem : (p * (i / p) + (p - 1 - i % p)) % p = p - 1 - i % p := by
    rw [Nat.mul_add_mod, Nat.mod_eq_of_lt (show p - 1 - i % p < p by omega)]
  have hback : p * (i / p) + (p - 1 - (p - 1 - i % p)) = i := by
    have := Nat.div_add_mod i p
    omega
  rw [revPrim_getElem, List.getD_eq_getElem _ _ (by simpa using hj), revPrim_getElem, hdiv, hrem, hback,
    List.getD_eq_getElem _ _ h2]

/-- A primitive width of 1 changes nothing (R12). -/
theorem revPrim_one (v : Bytes) : revPrim 1 v = v := by
  apply List.ext_getElem (by simp)
  intro i h1 h2
  rw [revPrim_getElem, show 1 * (i / 1) + (1 - 1 - i % 1) = i by omega, List.getD_eq_getElem _ _ h2]

/-- Exclusive or with the same bytes twice changes nothing, when they reach as far. -/
theorem xorBytes_xorBytes (a b : Bytes) (h : a.length ≤ b.length) : xorBytes (xorBytes a b) b = a := by
  induction a generalizing b with
  | nil => rfl
  | cons x a ih =>
    cases b with
    | nil => simp at h
    | cons y b =>
      have := ih b (by simpa using h)
      simp only [xorBytes, List.zipWith_cons_cons, List.cons.injEq] at this ⊢
      exact ⟨by rw [BitVec.xor_assoc, BitVec.xor_self, BitVec.xor_zero], this⟩

end Sys2Proof.Machine
end

