-- ==== Sys2Proof/Laws/Encoding.lean ====
section
/-! SUPPORT. The fields of an encoded word (30_encoding.md R86): what each extraction reads back from what `wordOf` and
`wordN` put together. -/

namespace Sys2Proof

theorem wordOf_getLsbD (o a b c : BitVec 8) (j : Nat) :
    (wordOf o a b c).getLsbD j =
      if j < 8 then c.getLsbD j else if j < 16 then b.getLsbD (j - 8)
      else if j < 24 then a.getLsbD (j - 16) else o.getLsbD (j - 24) := by
  simp only [wordOf, BitVec.getLsbD_append]
  by_cases h1 : j < 8
  · simp [h1]
  · by_cases h2 : j < 16
    · simp [h1, h2, show j - 8 < 8 by omega]
    · by_cases h3 : j < 24
      · simp [h1, h2, h3, show ¬ j - 8 < 8 by omega, show j - 8 - 8 = j - 16 by omega, show j - 16 < 8 by omega]
      · simp [h1, h2, h3, show ¬ j - 8 < 8 by omega, show ¬ j - 8 - 8 < 8 by omega,
          show j - 8 - 8 - 8 = j - 24 by omega]

/-- Format N is the four-field form with the immediate in `B` and `C`. -/
theorem wordN_eq (o : BitVec 8) (n : BitVec 16) : wordN o n = wordOf o 0 (n.extractLsb' 8 8) (n.extractLsb' 0 8) := by
  apply BitVec.eq_of_getLsbD_eq
  intro j hj
  rw [wordOf_getLsbD]
  simp only [wordN, BitVec.getLsbD_append, BitVec.getLsbD_extractLsb']
  by_cases h1 : j < 8
  · simp [h1, show j < 16 by omega]
  · by_cases h2 : j < 16
    · simp [h1, h2, show j - 8 < 8 by omega, show 8 + (j - 8) = j by omega]
    · by_cases h3 : j < 24
      · simp [h1, h2, h3, show j - 16 < 8 by omega]
      · simp [h1, h2, h3, show j - 16 - 8 = j - 24 by omega, show ¬ j - 16 < 8 by omega]

@[simp] theorem opcOf_wordOf (o a b c : BitVec 8) : opcOf (wordOf o a b c) = o := by
  apply BitVec.eq_of_getLsbD_eq
  intro j hj
  simp [opcOf, wordOf_getLsbD, hj, show ¬ 24 + j < 8 by omega, show ¬ 24 + j < 16 by omega]

@[simp] theorem fieldA_wordOf (o a b c : BitVec 8) : fieldA (wordOf o a b c) = a := by
  apply BitVec.eq_of_getLsbD_eq
  intro j hj
  simp [fieldA, wordOf_getLsbD, hj, show ¬ 16 + j < 8 by omega, show 16 + j < 24 by omega]

@[simp] theorem fieldB_wordOf (o a b c : BitVec 8) : fieldB (wordOf o a b c) = b := by
  apply BitVec.eq_of_getLsbD_eq
  intro j hj
  simp [fieldB, wordOf_getLsbD, hj, show 8 + j < 16 by omega]

@[simp] theorem fieldC_wordOf (o a b c : BitVec 8) : fieldC (wordOf o a b c) = c := by
  apply BitVec.eq_of_getLsbD_eq
  intro j hj
  simp [fieldC, wordOf_getLsbD, hj]

@[simp] theorem wordOf_bit_zero (o a b x : BitVec 8) : (wordOf o a b x)[0] = x[0] := wordOf_getLsbD o a b x 0

/-- Bits 7:1, which format S and HDR.VALID require to be zero (R90, R91). -/
@[simp] theorem wordOf_bits_7_1 (o a b c : BitVec 8) : (wordOf o a b c).extractLsb' 1 7 = c.extractLsb' 1 7 := by
  apply BitVec.eq_of_getLsbD_eq
  intro j hj
  simp [wordOf_getLsbD, hj, show 1 + j < 8 by omega]

theorem fieldN_wordOf (o a b c : BitVec 8) : fieldN (wordOf o a b c) = b ++ c := by
  apply BitVec.eq_of_getLsbD_eq
  intro j hj
  simp only [fieldN, BitVec.getLsbD_extractLsb', wordOf_getLsbD, BitVec.getLsbD_append]
  by_cases h : j < 8 <;> simp [h, hj]

@[simp] theorem opcOf_wordN (o : BitVec 8) (n : BitVec 16) : opcOf (wordN o n) = o := by rw [wordN_eq, opcOf_wordOf]

@[simp] theorem fieldA_wordN (o : BitVec 8) (n : BitVec 16) : fieldA (wordN o n) = 0 := by rw [wordN_eq, fieldA_wordOf]

@[simp] theorem fieldN_wordN (o : BitVec 8) (n : BitVec 16) : fieldN (wordN o n) = n := by
  apply BitVec.eq_of_getLsbD_eq
  intro j hj
  rw [fieldN, wordN, BitVec.getLsbD_extractLsb', BitVec.getLsbD_append]
  simp [hj]

/-- A word is its four fields. -/
theorem wordOf_fields (w : Word) : wordOf (opcOf w) (fieldA w) (fieldB w) (fieldC w) = w := by
  apply BitVec.eq_of_getLsbD_eq
  intro j hj
  rw [wordOf_getLsbD]
  simp only [opcOf, fieldA, fieldB, fieldC, BitVec.getLsbD_extractLsb']
  by_cases h1 : j < 8
  · simp [h1]
  · by_cases h2 : j < 16
    · simp [h1, h2, show j - 8 < 8 by omega, show 8 + (j - 8) = j by omega]
    · by_cases h3 : j < 24
      · simp [h1, h2, h3, show j - 16 < 8 by omega, show 16 + (j - 16) = j by omega]
      · simp [h1, h2, h3, show j - 24 < 8 by omega, show 24 + (j - 24) = j by omega]

/-- Two words are equal when their four fields are. -/
theorem wordOf_inj (o a b c o' a' b' c' : BitVec 8) :
    wordOf o a b c = wordOf o' a' b' c' ↔ o = o' ∧ a = a' ∧ b = b' ∧ c = c' := by
  constructor
  · intro h
    exact ⟨by rw [← opcOf_wordOf o a b c, h, opcOf_wordOf], by rw [← fieldA_wordOf o a b c, h, fieldA_wordOf],
      by rw [← fieldB_wordOf o a b c, h, fieldB_wordOf], by rw [← fieldC_wordOf o a b c, h, fieldC_wordOf]⟩
  · rintro ⟨rfl, rfl, rfl, rfl⟩; rfl

/-- A mask acts on the four fields one by one. -/
theorem wordOf_and (o a b c o' a' b' c' : BitVec 8) :
    wordOf o a b c &&& wordOf o' a' b' c' = wordOf (o &&& o') (a &&& a') (b &&& b') (c &&& c') := by
  apply BitVec.eq_of_getLsbD_eq
  intro j hj
  simp only [BitVec.getLsbD_and, wordOf_getLsbD]
  split
  · rfl
  · split
    · rfl
    · split <;> rfl

/-- The test of R94 on the four fields: a word satisfies a row when each of its fields satisfies the row's mask there. -/
theorem selects_wordOf (r : OpcodeRow) (o a b c : BitVec 8) :
    r.selects (wordOf o a b c) = true ↔
      o &&& opcOf r.mask = opcOf r.matchBits ∧ a &&& fieldA r.mask = fieldA r.matchBits ∧
      b &&& fieldB r.mask = fieldB r.matchBits ∧ c &&& fieldC r.mask = fieldC r.matchBits := by
  rw [OpcodeRow.selects, decide_eq_true_eq, ← wordOf_fields r.mask, ← wordOf_fields r.matchBits, wordOf_and, wordOf_inj]
  simp only [opcOf_wordOf, fieldA_wordOf, fieldB_wordOf, fieldC_wordOf]

end Sys2Proof
end

