-- ==== Sys2Proof/Laws/Params.lean ====
section
/-! SUPPORT. What the legality of the parameters (00_scope.md R8; 10_state.md R46) gives, one lemma for each fact. -/

namespace Sys2Proof

theorem Params.bounds (p : Params) :
    (64 ≤ p.ibufBytes ∧ p.ibufBytes ≤ 65535) ∧ (64 ≤ p.obufBytes ∧ p.obufBytes ≤ 65535) ∧
      (64 ≤ p.fsBytes ∧ p.fsBytes ≤ 65535) ∧ (48 ≤ p.secretMax ∧ p.secretMax ≤ 255) := by
  have h := p.legal
  simp only [RawParams.wf, Bool.and_eq_true, decide_eq_true_eq] at h
  omega

theorem Params.hdr_wf (p : Params) : p.hdr.wf = true := by
  have h := p.legal
  simp only [RawParams.wf, Bool.and_eq_true] at h
  exact h.1.1.1.2

theorem Params.unknownCmdCode_ne_zero (p : Params) : p.unknownCmdCode ≠ 0#32 := by
  have h := p.legal
  simp only [RawParams.wf, Bool.and_eq_true, decide_eq_true_eq] at h
  exact h.1.1.2

theorem Params.unknownCmdCode_lt (p : Params) : p.unknownCmdCode.toNat < 2 ^ p.hdr.code.width := by
  have h := p.legal
  simp only [RawParams.wf, Bool.and_eq_true, decide_eq_true_eq] at h
  exact h.1.2

/-- A structure the block knows has a well-formed descriptor (R46). -/
theorem Params.desc_wf (p : Params) (t : BitVec 8) (d : Descriptor) (h : p.structRom.lookup t = some d) :
    Descriptor.wf p.fsBytes d = true := by
  have hl := p.legal
  simp only [RawParams.wf, Bool.and_eq_true] at hl
  have hmem : (t, d) ∈ p.structRom := by
    have key : ∀ rom : StructRom, rom.lookup t = some d → (t, d) ∈ rom := by
      intro rom
      induction rom with
      | nil => intro h; simp [List.lookup] at h
      | cons e rom ih =>
        intro h
        obtain ⟨k, v⟩ := e
        by_cases hk : t = k
        · subst hk; simp [List.lookup] at h; simp [h]
        · have : (t == k) = false := by simpa using hk
          simp only [List.lookup, this] at h
          exact List.mem_cons_of_mem _ (ih h)
    exact key _ h
  exact List.all_eq_true.1 hl.2 _ hmem

/-- What R46 says of one field of a well-formed descriptor. -/
theorem Descriptor.field_wf {n : Nat} {d : Descriptor} (h : Descriptor.wf n d = true) {f : Nat} {x : FieldDesc}
    (hx : d[f]? = some x) : x.wf d f = true := by
  simp only [Descriptor.wf, Bool.and_eq_true, List.all_eq_true] at h
  exact h.1.2 (x, f) (by rw [List.mem_zipIdx_iff_getElem?]; exact hx)

theorem Descriptor.length_le {n : Nat} {d : Descriptor} (h : Descriptor.wf n d = true) : d.length ≤ 256 := by
  simp only [Descriptor.wf, Bool.and_eq_true, decide_eq_true_eq] at h
  exact h.1.1

theorem Descriptor.total_le {n : Nat} {d : Descriptor} (h : Descriptor.wf n d = true) :
    (d.map FieldDesc.fixedSize).sum ≤ n := by
  simp only [Descriptor.wf, Bool.and_eq_true, decide_eq_true_eq] at h
  exact h.2

/-- R46 (a): a FIXED field has at least one byte, and its primitive width divides its size. -/
theorem FieldDesc.wf_fixed {d : Descriptor} {f size : Nat} {x : FieldDesc} (h : x.wf d f = true)
    (hk : x.kind = .fixed size) : 1 ≤ x.prim ∧ 1 ≤ size ∧ size % x.prim = 0 := by
  simp only [FieldDesc.wf, hk, Bool.and_eq_true, decide_eq_true_eq] at h
  exact ⟨h.1, h.2.1.1, h.2.1.2⟩

/-- R46 (b): a LEN field is 2 or 4 bytes of one primitive and names a later VAR field that names it. -/
theorem FieldDesc.wf_len {d : Descriptor} {f size target : Nat} {x : FieldDesc} (h : x.wf d f = true)
    (hk : x.kind = .len size target) :
    (size = 2 ∨ size = 4) ∧ x.prim = size ∧ f < target ∧ ∃ y, d[target]? = some y ∧ y.kind = .var f := by
  simp only [FieldDesc.wf, hk, Bool.and_eq_true, Bool.or_eq_true, decide_eq_true_eq, Descriptor.targetOk] at h
  obtain ⟨-, ⟨⟨hs, hp⟩, hlt, ht⟩, -⟩ := h
  refine ⟨hs, hp, hlt, ?_⟩
  cases hd : d[target]? with
  | none => simp [hd] at ht
  | some y => exact ⟨y, rfl, by simpa [hd] using ht⟩

/-- R46 (c): a VAR field has primitive width 1, is never converted, and its length field is an earlier LEN field. -/
theorem FieldDesc.wf_var {d : Descriptor} {f lf : Nat} {x : FieldDesc} (h : x.wf d f = true) (hk : x.kind = .var lf) :
    x.prim = 1 ∧ x.fw ≠ .convert ∧ lf < f ∧ ∃ y size, d[lf]? = some y ∧ y.kind = .len size f := by
  simp only [FieldDesc.wf, hk, Bool.and_eq_true, decide_eq_true_eq, Descriptor.lenFieldOk] at h
  obtain ⟨-, ⟨⟨⟨hlt, hl⟩, hp⟩, hf⟩, -⟩ := h
  refine ⟨hp, hf, hlt, ?_⟩
  cases hd : d[lf]? with
  | none => simp [hd] at hl
  | some y =>
    simp only [hd, Option.map_some] at hl
    split at hl
    · next size target hy =>
      have : target = f := by simpa using hl
      exact ⟨y, size, rfl, by rw [← this]; exact Option.some.inj hy⟩
    · cases hl

end Sys2Proof
end

