-- ==== Sys2Proof/Laws/Memory.lean ====
section
/-! SUPPORT. The laws of a buffer: what a write changes and leaves, and that every operation keeps the canonical form.
The read laws hold of every list of cells, canonical or not. -/

namespace Sys2Proof.Machine

@[simp] theorem Memory.read_nil (a : Nat) : Memory.read [] a = 0 := rfl

theorem Memory.read_cons (c : Host.Cell) (m : Memory) (a : Nat) :
    Memory.read (c :: m) a = if c.1 = a then c.2 else Memory.read m a := rfl

theorem Memory.read_insert_same (m : Memory) (a : Nat) (b : Byte) (h : ∀ c ∈ m, c.1 ≠ a) :
    (m.insert a b).read a = b := by
  induction m with
  | nil => simp [Memory.insert, Memory.read_cons]
  | cons c m ih =>
    have hc : c.1 ≠ a := h c (by simp)
    simp only [Memory.insert]
    split
    · simp [Memory.read_cons]
    · simp [Memory.read_cons, hc, ih fun d hd => h d (by simp [hd])]

theorem Memory.read_insert_ne (m : Memory) (a a' : Nat) (b : Byte) (h : a' ≠ a) :
    (m.insert a b).read a' = m.read a' := by
  induction m with
  | nil => simp [Memory.insert, Memory.read_cons, h.symm]
  | cons c m ih =>
    simp only [Memory.insert]
    split
    · simp [Memory.read_cons, h.symm]
    · simp [Memory.read_cons, ih]

theorem Memory.mem_erase (m : Memory) (a : Nat) (c : Host.Cell) (h : c ∈ m.erase a) : c ∈ m ∧ c.1 ≠ a := by
  simpa [Memory.erase] using h

theorem Memory.read_erase_same (m : Memory) (a : Nat) : (m.erase a).read a = 0 := by
  induction m with
  | nil => rfl
  | cons c m ih =>
    by_cases hc : c.1 = a
    · simpa [Memory.erase, hc] using ih
    · have : Memory.erase (c :: m) a = c :: Memory.erase m a := by simp [Memory.erase, hc]
      simp [this, Memory.read_cons, hc, ih]

theorem Memory.read_erase_ne (m : Memory) (a a' : Nat) (h : a' ≠ a) : (m.erase a).read a' = m.read a' := by
  induction m with
  | nil => rfl
  | cons c m ih =>
    by_cases hc : c.1 = a
    · have : Memory.erase (c :: m) a = Memory.erase m a := by simp [Memory.erase, hc]
      have hca : c.1 ≠ a' := fun e => h (e.symm.trans hc)
      simp [this, Memory.read_cons, hca, ih]
    · have : Memory.erase (c :: m) a = c :: Memory.erase m a := by simp [Memory.erase, hc]
      simp [this, Memory.read_cons, ih]

/-- A read after a write to the same offset gives the byte written. -/
@[simp] theorem Memory.read_write_same (m : Memory) (a : Nat) (b : Byte) : (m.write a b).read a = b := by
  unfold Memory.write
  split
  · next h => rw [Memory.read_erase_same, h]
  · exact Memory.read_insert_same _ _ _ fun c hc => (Memory.mem_erase m a c hc).2

/-- A write leaves every other offset alone. -/
theorem Memory.read_write_ne (m : Memory) (a a' : Nat) (b : Byte) (h : a' ≠ a) : (m.write a b).read a' = m.read a' := by
  unfold Memory.write
  split
  · exact Memory.read_erase_ne m a a' h
  · rw [Memory.read_insert_ne _ _ _ _ h, Memory.read_erase_ne m a a' h]

/-- A write of several bytes leaves every offset outside them alone. -/
theorem Memory.read_writeBytes_outside (m : Memory) (a : Nat) (s : Bytes) (k : Nat) (h : k < a ∨ a + s.length ≤ k) :
    (m.writeBytes a s).read k = m.read k := by
  induction s generalizing m a with
  | nil => rfl
  | cons b s ih =>
    simp only [List.length_cons] at h
    rw [Memory.writeBytes, ih _ _ (by omega), Memory.read_write_ne _ _ _ _ (by omega)]

/-- A read inside the bytes just written gives them. -/
theorem Memory.read_writeBytes_inside (m : Memory) (a : Nat) (s : Bytes) (i : Nat) (h : i < s.length) :
    (m.writeBytes a s).read (a + i) = s[i] := by
  induction s generalizing m a i with
  | nil => simp at h
  | cons b s ih =>
    rw [Memory.writeBytes]
    cases i with
    | zero => rw [Memory.read_writeBytes_outside _ _ _ _ (by omega)]; simp
    | succ j =>
      have := ih (m.write a b) (a + 1) j (by simpa using h)
      rw [show a + (j + 1) = a + 1 + j by omega, this]; rfl

@[simp] theorem Memory.readBytes_length (m : Memory) (a n : Nat) : (m.readBytes a n).length = n := by
  simp [Memory.readBytes]

theorem Memory.readBytes_getElem (m : Memory) (a n i : Nat) (h : i < (m.readBytes a n).length) :
    (m.readBytes a n)[i] = m.read (a + i) := by simp [Memory.readBytes]

@[simp] theorem Memory.readBytes_zero (m : Memory) (a : Nat) : m.readBytes a 0 = [] := rfl

theorem Memory.readBytes_succ (m : Memory) (a n : Nat) :
    m.readBytes a (n + 1) = m.read a :: m.readBytes (a + 1) n := by
  simp only [Memory.readBytes, List.range_succ_eq_map, List.map_cons, List.map_map]
  congr 1
  apply List.map_congr_left
  intro i _
  simp only [Function.comp_apply, Nat.succ_eq_add_one]
  congr 1
  omega

/-- Bytes written and read back. -/
theorem Memory.readBytes_writeBytes (m : Memory) (a : Nat) (s : Bytes) :
    (m.writeBytes a s).readBytes a s.length = s := by
  apply List.ext_getElem (by simp)
  intro i h1 h2
  rw [Memory.readBytes_getElem, Memory.read_writeBytes_inside _ _ _ _ h2]

/-! ### The canonical form -/

theorem Memory.wf_nil : Memory.wf [] := ⟨List.Pairwise.nil, by simp⟩

theorem Memory.wf_erase (m : Memory) (a : Nat) (h : m.wf) : (m.erase a).wf :=
  ⟨h.1.filter _, fun c hc => h.2 c (Memory.mem_erase m a c hc).1⟩

theorem Memory.mem_insert (m : Memory) (a : Nat) (b : Byte) (c : Host.Cell) (h : c ∈ m.insert a b) :
    c = (a, b) ∨ c ∈ m := by
  induction m with
  | nil => simpa [Memory.insert] using h
  | cons d m ih =>
    simp only [Memory.insert] at h
    split at h
    · simpa using h
    · rcases List.mem_cons.1 h with h | h
      · exact .inr (by simp [h])
      · rcases ih h with h | h
        · exact .inl h
        · exact .inr (by simp [h])

theorem Memory.wf_insert (m : Memory) (a : Nat) (b : Byte) (hb : b ≠ 0) (h : m.wf) (hne : ∀ c ∈ m, c.1 ≠ a) :
    (m.insert a b).wf := by
  refine ⟨?_, fun c hc => ?_⟩
  · induction m with
    | nil => simp [Memory.insert]
    | cons d m ih =>
      obtain ⟨hd, hm⟩ := List.pairwise_cons.1 h.1
      have ihm := ih ⟨hm, fun c hc => h.2 c (by simp [hc])⟩ fun c hc => hne c (by simp [hc])
      simp only [Memory.insert]
      split
      · next hlt =>
        refine List.pairwise_cons.2 ⟨fun c hc => ?_, h.1⟩
        rcases List.mem_cons.1 hc with rfl | hc
        · exact hlt
        · exact Nat.lt_trans hlt (hd c hc)
      · next hlt =>
        refine List.pairwise_cons.2 ⟨fun c hc => ?_, ihm⟩
        rcases Memory.mem_insert m a b c hc with rfl | hc
        · have := hne d (by simp)
          simp only; omega
        · exact hd c hc
  · rcases Memory.mem_insert m a b c hc with rfl | hc
    · exact hb
    · exact h.2 c hc

/-- A write keeps the canonical form. -/
theorem Memory.wf_write (m : Memory) (a : Nat) (b : Byte) (h : m.wf) : (m.write a b).wf := by
  unfold Memory.write
  split
  · exact Memory.wf_erase m a h
  · next hb =>
    exact Memory.wf_insert _ _ _ hb (Memory.wf_erase m a h) fun c hc => (Memory.mem_erase m a c hc).2

theorem Memory.wf_writeBytes (m : Memory) (a : Nat) (s : Bytes) (h : m.wf) : (m.writeBytes a s).wf := by
  induction s generalizing m a with
  | nil => exact h
  | cons b s ih => exact ih _ _ (Memory.wf_write m a b h)

/-! ### Cells stay inside the buffer -/

theorem Memory.below_write (m : Memory) (a n : Nat) (b : Byte) (h : ∀ c ∈ m, c.1 < n) (ha : a < n) :
    ∀ c ∈ m.write a b, c.1 < n := by
  intro c hc
  unfold Memory.write at hc
  split at hc
  · exact h c (Memory.mem_erase m a c hc).1
  · rcases Memory.mem_insert _ _ _ _ hc with rfl | hc
    · exact ha
    · exact h c (Memory.mem_erase m a c hc).1

theorem Memory.below_writeBytes (m : Memory) (a n : Nat) (s : Bytes) (h : ∀ c ∈ m, c.1 < n)
    (ha : a + s.length ≤ n) : ∀ c ∈ m.writeBytes a s, c.1 < n := by
  induction s generalizing m a with
  | nil => exact h
  | cons b s ih =>
    simp only [List.length_cons] at ha
    exact ih _ _ (Memory.below_write m a n b h (by omega)) (by omega)

/-- Two buffers in canonical form that read alike everywhere are the same data. -/
theorem Memory.ext_of_read (m m' : Memory) (h : m.wf) (h' : m'.wf) (hr : ∀ a, m.read a = m'.read a) : m = m' := by
  have low : ∀ (m : Memory) (a : Nat), (∀ c ∈ m, a < c.1) → m.read a = 0 := by
    intro m a hm
    induction m with
    | nil => rfl
    | cons c m ih =>
      have := hm c (by simp)
      rw [Memory.read_cons, if_neg (by omega), ih fun d hd => hm d (by simp [hd])]
  induction m generalizing m' with
  | nil =>
    cases m' with
    | nil => rfl
    | cons c m' =>
      have := hr c.1
      rw [Memory.read_cons, if_pos rfl] at this
      exact absurd this.symm (h'.2 c (by simp))
  | cons c m ih =>
    cases m' with
    | nil =>
      have := hr c.1
      rw [Memory.read_cons, if_pos rfl] at this
      exact absurd this (h.2 c (by simp))
    | cons c' m' =>
      obtain ⟨hc, hm⟩ := List.pairwise_cons.1 h.1
      obtain ⟨hc', hm'⟩ := List.pairwise_cons.1 h'.1
      have hk : c.1 = c'.1 := by
        rcases Nat.lt_trichotomy c.1 c'.1 with hlt | heq | hlt
        · have e := hr c.1
          rw [Memory.read_cons, if_pos rfl, low (c' :: m') c.1 (fun d hd => by
            rcases List.mem_cons.1 hd with rfl | hd
            · exact hlt
            · exact Nat.lt_trans hlt (hc' d hd))] at e
          exact absurd e (h.2 c (by simp))
        · exact heq
        · have e := hr c'.1
          rw [Memory.read_cons c', if_pos rfl, low (c :: m) c'.1 (fun d hd => by
            rcases List.mem_cons.1 hd with rfl | hd
            · exact hlt
            · exact Nat.lt_trans hlt (hc d hd))] at e
          exact absurd e.symm (h'.2 c' (by simp))
      have hv : c.2 = c'.2 := by
        have e := hr c.1
        rwa [Memory.read_cons, if_pos rfl, Memory.read_cons, if_pos hk.symm] at e
      have hcc : c = c' := Prod.ext hk hv
      subst hcc
      congr 1
      refine ih m' ⟨hm, fun d hd => h.2 d (by simp [hd])⟩ ⟨hm', fun d hd => h'.2 d (by simp [hd])⟩ fun a => ?_
      by_cases ha : c.1 = a
      · subst ha
        rw [low m _ fun d hd => hc d hd, low m' _ fun d hd => hc' d hd]
      · have e := hr a
        rwa [Memory.read_cons, if_neg ha, Memory.read_cons, if_neg ha] at e

end Sys2Proof.Machine
end

