-- ==== Sys2Proof/Laws/State.lean ====
section
/-! SUPPORT. One lemma for each field under each named update of the state: what the update writes, and that it leaves
every other field. -/

namespace Sys2Proof.Machine

/-! ### OK completion (R249). -/

@[simp] theorem State.okCompletion_status (s : State) (out : Bytes) (res : Word) :
    (s.okCompletion out res).status = 0 := rfl
@[simp] theorem State.okCompletion_einfo0 (s : State) (out : Bytes) (res : Word) :
    (s.okCompletion out res).einfo0 = 0 := rfl
@[simp] theorem State.okCompletion_einfo1 (s : State) (out : Bytes) (res : Word) :
    (s.okCompletion out res).einfo1 = 0 := rfl
@[simp] theorem State.okCompletion_einfo2 (s : State) (out : Bytes) (res : Word) :
    (s.okCompletion out res).einfo2 = 0 := rfl
@[simp] theorem State.okCompletion_esticky (s : State) (out : Bytes) (res : Word) :
    (s.okCompletion out res).esticky = s.esticky := rfl
@[simp] theorem State.okCompletion_cfg (s : State) (out : Bytes) (res : Word) :
    (s.okCompletion out res).cfg = s.cfg := rfl
@[simp] theorem State.okCompletion_kstat (s : State) (out : Bytes) (res : Word) :
    (s.okCompletion out res).kstat = s.kstat := rfl
@[simp] theorem State.okCompletion_ilen (s : State) (out : Bytes) (res : Word) :
    (s.okCompletion out res).ilen = s.ilen := rfl
@[simp] theorem State.okCompletion_olen (s : State) (out : Bytes) (res : Word) :
    (s.okCompletion out res).olen = BitVec.ofNat 32 out.length := rfl
@[simp] theorem State.okCompletion_pos (s : State) (out : Bytes) (res : Word) :
    (s.okCompletion out res).pos = s.pos := rfl
@[simp] theorem State.okCompletion_limit (s : State) (out : Bytes) (res : Word) :
    (s.okCompletion out res).limit = s.limit := rfl
@[simp] theorem State.okCompletion_res (s : State) (out : Bytes) (res : Word) :
    (s.okCompletion out res).res = res := rfl
@[simp] theorem State.okCompletion_slen (s : State) (out : Bytes) (res : Word) :
    (s.okCompletion out res).slen = s.slen := rfl
@[simp] theorem State.okCompletion_llen (s : State) (out : Bytes) (res : Word) :
    (s.okCompletion out res).llen = s.llen := rfl
@[simp] theorem State.okCompletion_ssel (s : State) (out : Bytes) (res : Word) :
    (s.okCompletion out res).ssel = s.ssel := rfl
@[simp] theorem State.okCompletion_hcode (s : State) (out : Bytes) (res : Word) :
    (s.okCompletion out res).hcode = s.hcode := rfl
@[simp] theorem State.okCompletion_hlen (s : State) (out : Bytes) (res : Word) :
    (s.okCompletion out res).hlen = s.hlen := rfl
@[simp] theorem State.okCompletion_hclient (s : State) (out : Bytes) (res : Word) :
    (s.okCompletion out res).hclient = s.hclient := rfl
@[simp] theorem State.okCompletion_hid (s : State) (out : Bytes) (res : Word) :
    (s.okCompletion out res).hid = s.hid := rfl
@[simp] theorem State.okCompletion_ibuf (s : State) (out : Bytes) (res : Word) :
    (s.okCompletion out res).ibuf = s.ibuf := rfl
@[simp] theorem State.okCompletion_obuf (s : State) (out : Bytes) (res : Word) :
    (s.okCompletion out res).obuf = s.obuf.writeBytes 0 out := rfl
@[simp] theorem State.okCompletion_secret (s : State) (out : Bytes) (res : Word) :
    (s.okCompletion out res).secret = s.secret := rfl
@[simp] theorem State.okCompletion_lbuf (s : State) (out : Bytes) (res : Word) :
    (s.okCompletion out res).lbuf = s.lbuf := rfl
@[simp] theorem State.okCompletion_pmk (s : State) (out : Bytes) (res : Word) :
    (s.okCompletion out res).pmk = s.pmk := rfl
@[simp] theorem State.okCompletion_sek (s : State) (out : Bytes) (res : Word) :
    (s.okCompletion out res).sek = s.sek := rfl
@[simp] theorem State.okCompletion_smk (s : State) (out : Bytes) (res : Word) :
    (s.okCompletion out res).smk = s.smk := rfl
@[simp] theorem State.okCompletion_gkey (s : State) (out : Bytes) (res : Word) :
    (s.okCompletion out res).gkey = s.gkey := rfl
@[simp] theorem State.okCompletion_fs (s : State) (out : Bytes) (res : Word) : (s.okCompletion out res).fs = s.fs := rfl
@[simp] theorem State.okCompletion_params (s : State) (out : Bytes) (res : Word) :
    (s.okCompletion out res).params = s.params := rfl
@[simp] theorem State.okCompletion_pending (s : State) (out : Bytes) (res : Word) :
    (s.okCompletion out res).pending = s.pending := rfl
@[simp] theorem State.okCompletion_answer (s : State) (out : Bytes) (res : Word) :
    (s.okCompletion out res).answer = s.answer := rfl
@[simp] theorem State.okCompletion_rngTape (s : State) (out : Bytes) (res : Word) :
    (s.okCompletion out res).rngTape = s.rngTape := rfl
@[simp] theorem State.okCompletion_rngCount (s : State) (out : Bytes) (res : Word) :
    (s.okCompletion out res).rngCount = s.rngCount := rfl

/-! ### Fault entry (R250). -/

@[simp] theorem State.faultEntry_status (s : State) (c : FaultCode) (i0 i1 i2 : Nat) :
    (s.faultEntry c i0 i1 i2).status = BitVec.ofNat 32 c.code := rfl
@[simp] theorem State.faultEntry_einfo0 (s : State) (c : FaultCode) (i0 i1 i2 : Nat) :
    (s.faultEntry c i0 i1 i2).einfo0 = BitVec.ofNat 32 i0 := rfl
@[simp] theorem State.faultEntry_einfo1 (s : State) (c : FaultCode) (i0 i1 i2 : Nat) :
    (s.faultEntry c i0 i1 i2).einfo1 = BitVec.ofNat 32 i1 := rfl
@[simp] theorem State.faultEntry_einfo2 (s : State) (c : FaultCode) (i0 i1 i2 : Nat) :
    (s.faultEntry c i0 i1 i2).einfo2 = BitVec.ofNat 32 i2 := rfl
@[simp] theorem State.faultEntry_esticky (s : State) (c : FaultCode) (i0 i1 i2 : Nat) :
    (s.faultEntry c i0 i1 i2).esticky = setBit s.esticky c.code := rfl
@[simp] theorem State.faultEntry_cfg (s : State) (c : FaultCode) (i0 i1 i2 : Nat) :
    (s.faultEntry c i0 i1 i2).cfg = s.cfg := rfl
@[simp] theorem State.faultEntry_kstat (s : State) (c : FaultCode) (i0 i1 i2 : Nat) :
    (s.faultEntry c i0 i1 i2).kstat = s.kstat := rfl
@[simp] theorem State.faultEntry_ilen (s : State) (c : FaultCode) (i0 i1 i2 : Nat) :
    (s.faultEntry c i0 i1 i2).ilen = s.ilen := rfl
@[simp] theorem State.faultEntry_olen (s : State) (c : FaultCode) (i0 i1 i2 : Nat) :
    (s.faultEntry c i0 i1 i2).olen = 0 := rfl
@[simp] theorem State.faultEntry_pos (s : State) (c : FaultCode) (i0 i1 i2 : Nat) :
    (s.faultEntry c i0 i1 i2).pos = s.pos := rfl
@[simp] theorem State.faultEntry_limit (s : State) (c : FaultCode) (i0 i1 i2 : Nat) :
    (s.faultEntry c i0 i1 i2).limit = s.limit := rfl
@[simp] theorem State.faultEntry_res (s : State) (c : FaultCode) (i0 i1 i2 : Nat) :
    (s.faultEntry c i0 i1 i2).res = 0 := rfl
@[simp] theorem State.faultEntry_slen (s : State) (c : FaultCode) (i0 i1 i2 : Nat) :
    (s.faultEntry c i0 i1 i2).slen = s.slen := rfl
@[simp] theorem State.faultEntry_llen (s : State) (c : FaultCode) (i0 i1 i2 : Nat) :
    (s.faultEntry c i0 i1 i2).llen = s.llen := rfl
@[simp] theorem State.faultEntry_ssel (s : State) (c : FaultCode) (i0 i1 i2 : Nat) :
    (s.faultEntry c i0 i1 i2).ssel = s.ssel := rfl
@[simp] theorem State.faultEntry_hcode (s : State) (c : FaultCode) (i0 i1 i2 : Nat) :
    (s.faultEntry c i0 i1 i2).hcode = s.hcode := rfl
@[simp] theorem State.faultEntry_hlen (s : State) (c : FaultCode) (i0 i1 i2 : Nat) :
    (s.faultEntry c i0 i1 i2).hlen = s.hlen := rfl
@[simp] theorem State.faultEntry_hclient (s : State) (c : FaultCode) (i0 i1 i2 : Nat) :
    (s.faultEntry c i0 i1 i2).hclient = s.hclient := rfl
@[simp] theorem State.faultEntry_hid (s : State) (c : FaultCode) (i0 i1 i2 : Nat) :
    (s.faultEntry c i0 i1 i2).hid = s.hid := rfl
@[simp] theorem State.faultEntry_ibuf (s : State) (c : FaultCode) (i0 i1 i2 : Nat) :
    (s.faultEntry c i0 i1 i2).ibuf = s.ibuf := rfl
@[simp] theorem State.faultEntry_obuf (s : State) (c : FaultCode) (i0 i1 i2 : Nat) :
    (s.faultEntry c i0 i1 i2).obuf = s.obuf := rfl
@[simp] theorem State.faultEntry_secret (s : State) (c : FaultCode) (i0 i1 i2 : Nat) :
    (s.faultEntry c i0 i1 i2).secret = s.secret := rfl
@[simp] theorem State.faultEntry_lbuf (s : State) (c : FaultCode) (i0 i1 i2 : Nat) :
    (s.faultEntry c i0 i1 i2).lbuf = s.lbuf := rfl
@[simp] theorem State.faultEntry_pmk (s : State) (c : FaultCode) (i0 i1 i2 : Nat) :
    (s.faultEntry c i0 i1 i2).pmk = s.pmk := rfl
@[simp] theorem State.faultEntry_sek (s : State) (c : FaultCode) (i0 i1 i2 : Nat) :
    (s.faultEntry c i0 i1 i2).sek = s.sek := rfl
@[simp] theorem State.faultEntry_smk (s : State) (c : FaultCode) (i0 i1 i2 : Nat) :
    (s.faultEntry c i0 i1 i2).smk = s.smk := rfl
@[simp] theorem State.faultEntry_gkey (s : State) (c : FaultCode) (i0 i1 i2 : Nat) :
    (s.faultEntry c i0 i1 i2).gkey = s.gkey := rfl
@[simp] theorem State.faultEntry_fs (s : State) (c : FaultCode) (i0 i1 i2 : Nat) :
    (s.faultEntry c i0 i1 i2).fs = s.fs := rfl
@[simp] theorem State.faultEntry_params (s : State) (c : FaultCode) (i0 i1 i2 : Nat) :
    (s.faultEntry c i0 i1 i2).params = s.params := rfl
@[simp] theorem State.faultEntry_pending (s : State) (c : FaultCode) (i0 i1 i2 : Nat) :
    (s.faultEntry c i0 i1 i2).pending = s.pending := rfl
@[simp] theorem State.faultEntry_answer (s : State) (c : FaultCode) (i0 i1 i2 : Nat) :
    (s.faultEntry c i0 i1 i2).answer = s.answer := rfl
@[simp] theorem State.faultEntry_rngTape (s : State) (c : FaultCode) (i0 i1 i2 : Nat) :
    (s.faultEntry c i0 i1 i2).rngTape = s.rngTape := rfl
@[simp] theorem State.faultEntry_rngCount (s : State) (c : FaultCode) (i0 i1 i2 : Nat) :
    (s.faultEntry c i0 i1 i2).rngCount = s.rngCount := rfl

/-! ### Reset (R51, R280): everything but the parameters and the environment. -/

@[simp] theorem State.resetBlock_status (s : State) : (s.resetBlock).status = 0 := rfl
@[simp] theorem State.resetBlock_einfo0 (s : State) : (s.resetBlock).einfo0 = 0 := rfl
@[simp] theorem State.resetBlock_einfo1 (s : State) : (s.resetBlock).einfo1 = 0 := rfl
@[simp] theorem State.resetBlock_einfo2 (s : State) : (s.resetBlock).einfo2 = 0 := rfl
@[simp] theorem State.resetBlock_esticky (s : State) : (s.resetBlock).esticky = 0 := rfl
@[simp] theorem State.resetBlock_cfg (s : State) : (s.resetBlock).cfg = 0 := rfl
@[simp] theorem State.resetBlock_kstat (s : State) : (s.resetBlock).kstat = 0 := rfl
@[simp] theorem State.resetBlock_ilen (s : State) : (s.resetBlock).ilen = 0 := rfl
@[simp] theorem State.resetBlock_olen (s : State) : (s.resetBlock).olen = 0 := rfl
@[simp] theorem State.resetBlock_pos (s : State) : (s.resetBlock).pos = 0 := rfl
@[simp] theorem State.resetBlock_limit (s : State) : (s.resetBlock).limit = 0 := rfl
@[simp] theorem State.resetBlock_res (s : State) : (s.resetBlock).res = 0 := rfl
@[simp] theorem State.resetBlock_slen (s : State) : (s.resetBlock).slen = 0 := rfl
@[simp] theorem State.resetBlock_llen (s : State) : (s.resetBlock).llen = 0 := rfl
@[simp] theorem State.resetBlock_ssel (s : State) : (s.resetBlock).ssel = 0 := rfl
@[simp] theorem State.resetBlock_hcode (s : State) : (s.resetBlock).hcode = 0 := rfl
@[simp] theorem State.resetBlock_hlen (s : State) : (s.resetBlock).hlen = 0 := rfl
@[simp] theorem State.resetBlock_hclient (s : State) : (s.resetBlock).hclient = 0 := rfl
@[simp] theorem State.resetBlock_hid (s : State) : (s.resetBlock).hid = 0 := rfl
@[simp] theorem State.resetBlock_ibuf (s : State) : (s.resetBlock).ibuf = [] := rfl
@[simp] theorem State.resetBlock_obuf (s : State) : (s.resetBlock).obuf = [] := rfl
@[simp] theorem State.resetBlock_secret (s : State) : (s.resetBlock).secret = [] := rfl
@[simp] theorem State.resetBlock_lbuf (s : State) : (s.resetBlock).lbuf = [] := rfl
@[simp] theorem State.resetBlock_pmk (s : State) : (s.resetBlock).pmk = 0 := rfl
@[simp] theorem State.resetBlock_sek (s : State) : (s.resetBlock).sek = 0 := rfl
@[simp] theorem State.resetBlock_smk (s : State) : (s.resetBlock).smk = 0 := rfl
@[simp] theorem State.resetBlock_gkey (s : State) : (s.resetBlock).gkey = 0 := rfl
@[simp] theorem State.resetBlock_fs (s : State) : (s.resetBlock).fs = [] := rfl
@[simp] theorem State.resetBlock_params (s : State) : (s.resetBlock).params = s.params := rfl
@[simp] theorem State.resetBlock_pending (s : State) : (s.resetBlock).pending = s.pending := rfl
@[simp] theorem State.resetBlock_answer (s : State) : (s.resetBlock).answer = s.answer := rfl
@[simp] theorem State.resetBlock_rngTape (s : State) : (s.resetBlock).rngTape = s.rngTape := rfl
@[simp] theorem State.resetBlock_rngCount (s : State) : (s.resetBlock).rngCount = s.rngCount := rfl

/-! ### A draw of the RNG (R189). -/

@[simp] theorem State.afterDraw_status (s : State) : (s.afterDraw).status = s.status := rfl
@[simp] theorem State.afterDraw_einfo0 (s : State) : (s.afterDraw).einfo0 = s.einfo0 := rfl
@[simp] theorem State.afterDraw_einfo1 (s : State) : (s.afterDraw).einfo1 = s.einfo1 := rfl
@[simp] theorem State.afterDraw_einfo2 (s : State) : (s.afterDraw).einfo2 = s.einfo2 := rfl
@[simp] theorem State.afterDraw_esticky (s : State) : (s.afterDraw).esticky = s.esticky := rfl
@[simp] theorem State.afterDraw_cfg (s : State) : (s.afterDraw).cfg = s.cfg := rfl
@[simp] theorem State.afterDraw_kstat (s : State) : (s.afterDraw).kstat = s.kstat := rfl
@[simp] theorem State.afterDraw_ilen (s : State) : (s.afterDraw).ilen = s.ilen := rfl
@[simp] theorem State.afterDraw_olen (s : State) : (s.afterDraw).olen = s.olen := rfl
@[simp] theorem State.afterDraw_pos (s : State) : (s.afterDraw).pos = s.pos := rfl
@[simp] theorem State.afterDraw_limit (s : State) : (s.afterDraw).limit = s.limit := rfl
@[simp] theorem State.afterDraw_res (s : State) : (s.afterDraw).res = s.res := rfl
@[simp] theorem State.afterDraw_slen (s : State) : (s.afterDraw).slen = s.slen := rfl
@[simp] theorem State.afterDraw_llen (s : State) : (s.afterDraw).llen = s.llen := rfl
@[simp] theorem State.afterDraw_ssel (s : State) : (s.afterDraw).ssel = s.ssel := rfl
@[simp] theorem State.afterDraw_hcode (s : State) : (s.afterDraw).hcode = s.hcode := rfl
@[simp] theorem State.afterDraw_hlen (s : State) : (s.afterDraw).hlen = s.hlen := rfl
@[simp] theorem State.afterDraw_hclient (s : State) : (s.afterDraw).hclient = s.hclient := rfl
@[simp] theorem State.afterDraw_hid (s : State) : (s.afterDraw).hid = s.hid := rfl
@[simp] theorem State.afterDraw_ibuf (s : State) : (s.afterDraw).ibuf = s.ibuf := rfl
@[simp] theorem State.afterDraw_obuf (s : State) : (s.afterDraw).obuf = s.obuf := rfl
@[simp] theorem State.afterDraw_secret (s : State) : (s.afterDraw).secret = s.secret := rfl
@[simp] theorem State.afterDraw_lbuf (s : State) : (s.afterDraw).lbuf = s.lbuf := rfl
@[simp] theorem State.afterDraw_pmk (s : State) : (s.afterDraw).pmk = s.pmk := rfl
@[simp] theorem State.afterDraw_sek (s : State) : (s.afterDraw).sek = s.sek := rfl
@[simp] theorem State.afterDraw_smk (s : State) : (s.afterDraw).smk = s.smk := rfl
@[simp] theorem State.afterDraw_gkey (s : State) : (s.afterDraw).gkey = s.gkey := rfl
@[simp] theorem State.afterDraw_fs (s : State) : (s.afterDraw).fs = s.fs := rfl
@[simp] theorem State.afterDraw_params (s : State) : (s.afterDraw).params = s.params := rfl
@[simp] theorem State.afterDraw_pending (s : State) : (s.afterDraw).pending = s.pending := rfl
@[simp] theorem State.afterDraw_answer (s : State) : (s.afterDraw).answer = s.answer := rfl
@[simp] theorem State.afterDraw_rngTape (s : State) : (s.afterDraw).rngTape = s.rngTape.tail := rfl
@[simp] theorem State.afterDraw_rngCount (s : State) : (s.afterDraw).rngCount = s.rngCount + 1 := rfl

/-! ### The cursor moved (R105). -/

@[simp] theorem State.setPos_status (s : State) (p : Nat) : (s.setPos p).status = s.status := rfl
@[simp] theorem State.setPos_einfo0 (s : State) (p : Nat) : (s.setPos p).einfo0 = s.einfo0 := rfl
@[simp] theorem State.setPos_einfo1 (s : State) (p : Nat) : (s.setPos p).einfo1 = s.einfo1 := rfl
@[simp] theorem State.setPos_einfo2 (s : State) (p : Nat) : (s.setPos p).einfo2 = s.einfo2 := rfl
@[simp] theorem State.setPos_esticky (s : State) (p : Nat) : (s.setPos p).esticky = s.esticky := rfl
@[simp] theorem State.setPos_cfg (s : State) (p : Nat) : (s.setPos p).cfg = s.cfg := rfl
@[simp] theorem State.setPos_kstat (s : State) (p : Nat) : (s.setPos p).kstat = s.kstat := rfl
@[simp] theorem State.setPos_ilen (s : State) (p : Nat) : (s.setPos p).ilen = s.ilen := rfl
@[simp] theorem State.setPos_olen (s : State) (p : Nat) : (s.setPos p).olen = s.olen := rfl
@[simp] theorem State.setPos_pos (s : State) (p : Nat) : (s.setPos p).pos = BitVec.ofNat 32 p := rfl
@[simp] theorem State.setPos_limit (s : State) (p : Nat) : (s.setPos p).limit = s.limit := rfl
@[simp] theorem State.setPos_res (s : State) (p : Nat) : (s.setPos p).res = s.res := rfl
@[simp] theorem State.setPos_slen (s : State) (p : Nat) : (s.setPos p).slen = s.slen := rfl
@[simp] theorem State.setPos_llen (s : State) (p : Nat) : (s.setPos p).llen = s.llen := rfl
@[simp] theorem State.setPos_ssel (s : State) (p : Nat) : (s.setPos p).ssel = s.ssel := rfl
@[simp] theorem State.setPos_hcode (s : State) (p : Nat) : (s.setPos p).hcode = s.hcode := rfl
@[simp] theorem State.setPos_hlen (s : State) (p : Nat) : (s.setPos p).hlen = s.hlen := rfl
@[simp] theorem State.setPos_hclient (s : State) (p : Nat) : (s.setPos p).hclient = s.hclient := rfl
@[simp] theorem State.setPos_hid (s : State) (p : Nat) : (s.setPos p).hid = s.hid := rfl
@[simp] theorem State.setPos_ibuf (s : State) (p : Nat) : (s.setPos p).ibuf = s.ibuf := rfl
@[simp] theorem State.setPos_obuf (s : State) (p : Nat) : (s.setPos p).obuf = s.obuf := rfl
@[simp] theorem State.setPos_secret (s : State) (p : Nat) : (s.setPos p).secret = s.secret := rfl
@[simp] theorem State.setPos_lbuf (s : State) (p : Nat) : (s.setPos p).lbuf = s.lbuf := rfl
@[simp] theorem State.setPos_pmk (s : State) (p : Nat) : (s.setPos p).pmk = s.pmk := rfl
@[simp] theorem State.setPos_sek (s : State) (p : Nat) : (s.setPos p).sek = s.sek := rfl
@[simp] theorem State.setPos_smk (s : State) (p : Nat) : (s.setPos p).smk = s.smk := rfl
@[simp] theorem State.setPos_gkey (s : State) (p : Nat) : (s.setPos p).gkey = s.gkey := rfl
@[simp] theorem State.setPos_fs (s : State) (p : Nat) : (s.setPos p).fs = s.fs := rfl
@[simp] theorem State.setPos_params (s : State) (p : Nat) : (s.setPos p).params = s.params := rfl
@[simp] theorem State.setPos_pending (s : State) (p : Nat) : (s.setPos p).pending = s.pending := rfl
@[simp] theorem State.setPos_answer (s : State) (p : Nat) : (s.setPos p).answer = s.answer := rfl
@[simp] theorem State.setPos_rngTape (s : State) (p : Nat) : (s.setPos p).rngTape = s.rngTape := rfl
@[simp] theorem State.setPos_rngCount (s : State) (p : Nat) : (s.setPos p).rngCount = s.rngCount := rfl

/-! ### KCLR (R208). -/

@[simp] theorem State.clearKeys_status (s : State) : (s.clearKeys).status = s.status := rfl
@[simp] theorem State.clearKeys_einfo0 (s : State) : (s.clearKeys).einfo0 = s.einfo0 := rfl
@[simp] theorem State.clearKeys_einfo1 (s : State) : (s.clearKeys).einfo1 = s.einfo1 := rfl
@[simp] theorem State.clearKeys_einfo2 (s : State) : (s.clearKeys).einfo2 = s.einfo2 := rfl
@[simp] theorem State.clearKeys_esticky (s : State) : (s.clearKeys).esticky = s.esticky := rfl
@[simp] theorem State.clearKeys_cfg (s : State) : (s.clearKeys).cfg = s.cfg := rfl
@[simp] theorem State.clearKeys_kstat (s : State) : (s.clearKeys).kstat = 0 := rfl
@[simp] theorem State.clearKeys_ilen (s : State) : (s.clearKeys).ilen = s.ilen := rfl
@[simp] theorem State.clearKeys_olen (s : State) : (s.clearKeys).olen = s.olen := rfl
@[simp] theorem State.clearKeys_pos (s : State) : (s.clearKeys).pos = s.pos := rfl
@[simp] theorem State.clearKeys_limit (s : State) : (s.clearKeys).limit = s.limit := rfl
@[simp] theorem State.clearKeys_res (s : State) : (s.clearKeys).res = s.res := rfl
@[simp] theorem State.clearKeys_slen (s : State) : (s.clearKeys).slen = 0 := rfl
@[simp] theorem State.clearKeys_llen (s : State) : (s.clearKeys).llen = s.llen := rfl
@[simp] theorem State.clearKeys_ssel (s : State) : (s.clearKeys).ssel = s.ssel := rfl
@[simp] theorem State.clearKeys_hcode (s : State) : (s.clearKeys).hcode = s.hcode := rfl
@[simp] theorem State.clearKeys_hlen (s : State) : (s.clearKeys).hlen = s.hlen := rfl
@[simp] theorem State.clearKeys_hclient (s : State) : (s.clearKeys).hclient = s.hclient := rfl
@[simp] theorem State.clearKeys_hid (s : State) : (s.clearKeys).hid = s.hid := rfl
@[simp] theorem State.clearKeys_ibuf (s : State) : (s.clearKeys).ibuf = s.ibuf := rfl
@[simp] theorem State.clearKeys_obuf (s : State) : (s.clearKeys).obuf = s.obuf := rfl
@[simp] theorem State.clearKeys_secret (s : State) : (s.clearKeys).secret = [] := rfl
@[simp] theorem State.clearKeys_lbuf (s : State) : (s.clearKeys).lbuf = s.lbuf := rfl
@[simp] theorem State.clearKeys_pmk (s : State) : (s.clearKeys).pmk = 0 := rfl
@[simp] theorem State.clearKeys_sek (s : State) : (s.clearKeys).sek = 0 := rfl
@[simp] theorem State.clearKeys_smk (s : State) : (s.clearKeys).smk = 0 := rfl
@[simp] theorem State.clearKeys_gkey (s : State) : (s.clearKeys).gkey = 0 := rfl
@[simp] theorem State.clearKeys_fs (s : State) : (s.clearKeys).fs = s.fs := rfl
@[simp] theorem State.clearKeys_params (s : State) : (s.clearKeys).params = s.params := rfl
@[simp] theorem State.clearKeys_pending (s : State) : (s.clearKeys).pending = s.pending := rfl
@[simp] theorem State.clearKeys_answer (s : State) : (s.clearKeys).answer = s.answer := rfl
@[simp] theorem State.clearKeys_rngTape (s : State) : (s.clearKeys).rngTape = s.rngTape := rfl
@[simp] theorem State.clearKeys_rngCount (s : State) : (s.clearKeys).rngCount = s.rngCount := rfl

/-! ### A builder opened (R127, R139). -/

@[simp] theorem State.openBuilder_status (s : State) (t : BitVec 8) (fields : List Bytes) :
    (s.openBuilder t fields).status = s.status := rfl
@[simp] theorem State.openBuilder_einfo0 (s : State) (t : BitVec 8) (fields : List Bytes) :
    (s.openBuilder t fields).einfo0 = s.einfo0 := rfl
@[simp] theorem State.openBuilder_einfo1 (s : State) (t : BitVec 8) (fields : List Bytes) :
    (s.openBuilder t fields).einfo1 = s.einfo1 := rfl
@[simp] theorem State.openBuilder_einfo2 (s : State) (t : BitVec 8) (fields : List Bytes) :
    (s.openBuilder t fields).einfo2 = s.einfo2 := rfl
@[simp] theorem State.openBuilder_esticky (s : State) (t : BitVec 8) (fields : List Bytes) :
    (s.openBuilder t fields).esticky = s.esticky := rfl
@[simp] theorem State.openBuilder_cfg (s : State) (t : BitVec 8) (fields : List Bytes) :
    (s.openBuilder t fields).cfg = s.cfg := rfl
@[simp] theorem State.openBuilder_kstat (s : State) (t : BitVec 8) (fields : List Bytes) :
    (s.openBuilder t fields).kstat = s.kstat := rfl
@[simp] theorem State.openBuilder_ilen (s : State) (t : BitVec 8) (fields : List Bytes) :
    (s.openBuilder t fields).ilen = s.ilen := rfl
@[simp] theorem State.openBuilder_olen (s : State) (t : BitVec 8) (fields : List Bytes) :
    (s.openBuilder t fields).olen = s.olen := rfl
@[simp] theorem State.openBuilder_pos (s : State) (t : BitVec 8) (fields : List Bytes) :
    (s.openBuilder t fields).pos = s.pos := rfl
@[simp] theorem State.openBuilder_limit (s : State) (t : BitVec 8) (fields : List Bytes) :
    (s.openBuilder t fields).limit = s.limit := rfl
@[simp] theorem State.openBuilder_res (s : State) (t : BitVec 8) (fields : List Bytes) :
    (s.openBuilder t fields).res = s.res := rfl
@[simp] theorem State.openBuilder_slen (s : State) (t : BitVec 8) (fields : List Bytes) :
    (s.openBuilder t fields).slen = s.slen := rfl
@[simp] theorem State.openBuilder_llen (s : State) (t : BitVec 8) (fields : List Bytes) :
    (s.openBuilder t fields).llen = s.llen := rfl
@[simp] theorem State.openBuilder_ssel (s : State) (t : BitVec 8) (fields : List Bytes) :
    (s.openBuilder t fields).ssel = sselOpen t := rfl
@[simp] theorem State.openBuilder_hcode (s : State) (t : BitVec 8) (fields : List Bytes) :
    (s.openBuilder t fields).hcode = s.hcode := rfl
@[simp] theorem State.openBuilder_hlen (s : State) (t : BitVec 8) (fields : List Bytes) :
    (s.openBuilder t fields).hlen = s.hlen := rfl
@[simp] theorem State.openBuilder_hclient (s : State) (t : BitVec 8) (fields : List Bytes) :
    (s.openBuilder t fields).hclient = s.hclient := rfl
@[simp] theorem State.openBuilder_hid (s : State) (t : BitVec 8) (fields : List Bytes) :
    (s.openBuilder t fields).hid = s.hid := rfl
@[simp] theorem State.openBuilder_ibuf (s : State) (t : BitVec 8) (fields : List Bytes) :
    (s.openBuilder t fields).ibuf = s.ibuf := rfl
@[simp] theorem State.openBuilder_obuf (s : State) (t : BitVec 8) (fields : List Bytes) :
    (s.openBuilder t fields).obuf = s.obuf := rfl
@[simp] theorem State.openBuilder_secret (s : State) (t : BitVec 8) (fields : List Bytes) :
    (s.openBuilder t fields).secret = s.secret := rfl
@[simp] theorem State.openBuilder_lbuf (s : State) (t : BitVec 8) (fields : List Bytes) :
    (s.openBuilder t fields).lbuf = s.lbuf := rfl
@[simp] theorem State.openBuilder_pmk (s : State) (t : BitVec 8) (fields : List Bytes) :
    (s.openBuilder t fields).pmk = s.pmk := rfl
@[simp] theorem State.openBuilder_sek (s : State) (t : BitVec 8) (fields : List Bytes) :
    (s.openBuilder t fields).sek = s.sek := rfl
@[simp] theorem State.openBuilder_smk (s : State) (t : BitVec 8) (fields : List Bytes) :
    (s.openBuilder t fields).smk = s.smk := rfl
@[simp] theorem State.openBuilder_gkey (s : State) (t : BitVec 8) (fields : List Bytes) :
    (s.openBuilder t fields).gkey = s.gkey := rfl
@[simp] theorem State.openBuilder_fs (s : State) (t : BitVec 8) (fields : List Bytes) :
    (s.openBuilder t fields).fs = fields := rfl
@[simp] theorem State.openBuilder_params (s : State) (t : BitVec 8) (fields : List Bytes) :
    (s.openBuilder t fields).params = s.params := rfl
@[simp] theorem State.openBuilder_pending (s : State) (t : BitVec 8) (fields : List Bytes) :
    (s.openBuilder t fields).pending = s.pending := rfl
@[simp] theorem State.openBuilder_answer (s : State) (t : BitVec 8) (fields : List Bytes) :
    (s.openBuilder t fields).answer = s.answer := rfl
@[simp] theorem State.openBuilder_rngTape (s : State) (t : BitVec 8) (fields : List Bytes) :
    (s.openBuilder t fields).rngTape = s.rngTape := rfl
@[simp] theorem State.openBuilder_rngCount (s : State) (t : BitVec 8) (fields : List Bytes) :
    (s.openBuilder t fields).rngCount = s.rngCount := rfl

/-! ### The header registers taken from a word (R156). -/

@[simp] theorem State.setHeader_status (s : State) (w : Word) : (s.setHeader w).status = s.status := rfl
@[simp] theorem State.setHeader_einfo0 (s : State) (w : Word) : (s.setHeader w).einfo0 = s.einfo0 := rfl
@[simp] theorem State.setHeader_einfo1 (s : State) (w : Word) : (s.setHeader w).einfo1 = s.einfo1 := rfl
@[simp] theorem State.setHeader_einfo2 (s : State) (w : Word) : (s.setHeader w).einfo2 = s.einfo2 := rfl
@[simp] theorem State.setHeader_esticky (s : State) (w : Word) : (s.setHeader w).esticky = s.esticky := rfl
@[simp] theorem State.setHeader_cfg (s : State) (w : Word) : (s.setHeader w).cfg = s.cfg := rfl
@[simp] theorem State.setHeader_kstat (s : State) (w : Word) : (s.setHeader w).kstat = s.kstat := rfl
@[simp] theorem State.setHeader_ilen (s : State) (w : Word) : (s.setHeader w).ilen = s.ilen := rfl
@[simp] theorem State.setHeader_olen (s : State) (w : Word) : (s.setHeader w).olen = s.olen := rfl
@[simp] theorem State.setHeader_pos (s : State) (w : Word) : (s.setHeader w).pos = s.pos := rfl
@[simp] theorem State.setHeader_limit (s : State) (w : Word) : (s.setHeader w).limit = s.limit := rfl
@[simp] theorem State.setHeader_res (s : State) (w : Word) : (s.setHeader w).res = s.res := rfl
@[simp] theorem State.setHeader_slen (s : State) (w : Word) : (s.setHeader w).slen = s.slen := rfl
@[simp] theorem State.setHeader_llen (s : State) (w : Word) : (s.setHeader w).llen = s.llen := rfl
@[simp] theorem State.setHeader_ssel (s : State) (w : Word) : (s.setHeader w).ssel = s.ssel := rfl
@[simp] theorem State.setHeader_hcode (s : State) (w : Word) :
    (s.setHeader w).hcode = headerField s.params.hdr.code w := rfl
@[simp] theorem State.setHeader_hlen (s : State) (w : Word) :
    (s.setHeader w).hlen = headerField s.params.hdr.length w := rfl
@[simp] theorem State.setHeader_hclient (s : State) (w : Word) :
    (s.setHeader w).hclient = headerField s.params.hdr.client w := rfl
@[simp] theorem State.setHeader_hid (s : State) (w : Word) : (s.setHeader w).hid = headerField s.params.hdr.id w := rfl
@[simp] theorem State.setHeader_ibuf (s : State) (w : Word) : (s.setHeader w).ibuf = s.ibuf := rfl
@[simp] theorem State.setHeader_obuf (s : State) (w : Word) : (s.setHeader w).obuf = s.obuf := rfl
@[simp] theorem State.setHeader_secret (s : State) (w : Word) : (s.setHeader w).secret = s.secret := rfl
@[simp] theorem State.setHeader_lbuf (s : State) (w : Word) : (s.setHeader w).lbuf = s.lbuf := rfl
@[simp] theorem State.setHeader_pmk (s : State) (w : Word) : (s.setHeader w).pmk = s.pmk := rfl
@[simp] theorem State.setHeader_sek (s : State) (w : Word) : (s.setHeader w).sek = s.sek := rfl
@[simp] theorem State.setHeader_smk (s : State) (w : Word) : (s.setHeader w).smk = s.smk := rfl
@[simp] theorem State.setHeader_gkey (s : State) (w : Word) : (s.setHeader w).gkey = s.gkey := rfl
@[simp] theorem State.setHeader_fs (s : State) (w : Word) : (s.setHeader w).fs = s.fs := rfl
@[simp] theorem State.setHeader_params (s : State) (w : Word) : (s.setHeader w).params = s.params := rfl
@[simp] theorem State.setHeader_pending (s : State) (w : Word) : (s.setHeader w).pending = s.pending := rfl
@[simp] theorem State.setHeader_answer (s : State) (w : Word) : (s.setHeader w).answer = s.answer := rfl
@[simp] theorem State.setHeader_rngTape (s : State) (w : Word) : (s.setHeader w).rngTape = s.rngTape := rfl
@[simp] theorem State.setHeader_rngCount (s : State) (w : Word) : (s.setHeader w).rngCount = s.rngCount := rfl

/-! ### A key slot written (R173 to R175). -/

@[simp] theorem State.setSlot_status (s : State) (k : Slot) (v : Bytes) :
    (s.setSlot k v).status = s.status := by cases k <;> rfl
@[simp] theorem State.setSlot_einfo0 (s : State) (k : Slot) (v : Bytes) :
    (s.setSlot k v).einfo0 = s.einfo0 := by cases k <;> rfl
@[simp] theorem State.setSlot_einfo1 (s : State) (k : Slot) (v : Bytes) :
    (s.setSlot k v).einfo1 = s.einfo1 := by cases k <;> rfl
@[simp] theorem State.setSlot_einfo2 (s : State) (k : Slot) (v : Bytes) :
    (s.setSlot k v).einfo2 = s.einfo2 := by cases k <;> rfl
@[simp] theorem State.setSlot_esticky (s : State) (k : Slot) (v : Bytes) :
    (s.setSlot k v).esticky = s.esticky := by cases k <;> rfl
@[simp] theorem State.setSlot_cfg (s : State) (k : Slot) (v : Bytes) : (s.setSlot k v).cfg = s.cfg := by cases k <;> rfl
@[simp] theorem State.setSlot_kstat (s : State) (k : Slot) (v : Bytes) :
    (s.setSlot k v).kstat = setBit s.kstat (slotBit k) := by cases k <;> rfl
@[simp] theorem State.setSlot_ilen (s : State) (k : Slot) (v : Bytes) :
    (s.setSlot k v).ilen = s.ilen := by cases k <;> rfl
@[simp] theorem State.setSlot_olen (s : State) (k : Slot) (v : Bytes) :
    (s.setSlot k v).olen = s.olen := by cases k <;> rfl
@[simp] theorem State.setSlot_pos (s : State) (k : Slot) (v : Bytes) : (s.setSlot k v).pos = s.pos := by cases k <;> rfl
@[simp] theorem State.setSlot_limit (s : State) (k : Slot) (v : Bytes) :
    (s.setSlot k v).limit = s.limit := by cases k <;> rfl
@[simp] theorem State.setSlot_res (s : State) (k : Slot) (v : Bytes) : (s.setSlot k v).res = s.res := by cases k <;> rfl
@[simp] theorem State.setSlot_slen (s : State) (k : Slot) (v : Bytes) :
    (s.setSlot k v).slen = s.slen := by cases k <;> rfl
@[simp] theorem State.setSlot_llen (s : State) (k : Slot) (v : Bytes) :
    (s.setSlot k v).llen = s.llen := by cases k <;> rfl
@[simp] theorem State.setSlot_ssel (s : State) (k : Slot) (v : Bytes) :
    (s.setSlot k v).ssel = s.ssel := by cases k <;> rfl
@[simp] theorem State.setSlot_hcode (s : State) (k : Slot) (v : Bytes) :
    (s.setSlot k v).hcode = s.hcode := by cases k <;> rfl
@[simp] theorem State.setSlot_hlen (s : State) (k : Slot) (v : Bytes) :
    (s.setSlot k v).hlen = s.hlen := by cases k <;> rfl
@[simp] theorem State.setSlot_hclient (s : State) (k : Slot) (v : Bytes) :
    (s.setSlot k v).hclient = s.hclient := by cases k <;> rfl
@[simp] theorem State.setSlot_hid (s : State) (k : Slot) (v : Bytes) : (s.setSlot k v).hid = s.hid := by cases k <;> rfl
@[simp] theorem State.setSlot_ibuf (s : State) (k : Slot) (v : Bytes) :
    (s.setSlot k v).ibuf = s.ibuf := by cases k <;> rfl
@[simp] theorem State.setSlot_obuf (s : State) (k : Slot) (v : Bytes) :
    (s.setSlot k v).obuf = s.obuf := by cases k <;> rfl
@[simp] theorem State.setSlot_secret (s : State) (k : Slot) (v : Bytes) :
    (s.setSlot k v).secret = s.secret := by cases k <;> rfl
@[simp] theorem State.setSlot_lbuf (s : State) (k : Slot) (v : Bytes) :
    (s.setSlot k v).lbuf = s.lbuf := by cases k <;> rfl
@[simp] theorem State.setSlot_pmk (s : State) (k : Slot) (v : Bytes) :
    (s.setSlot k v).pmk = if k = .pmk then BitVec.ofNat 384 (intBE v) else s.pmk := by cases k <;> rfl
@[simp] theorem State.setSlot_sek (s : State) (k : Slot) (v : Bytes) :
    (s.setSlot k v).sek = if k = .sek then BitVec.ofNat 256 (intBE v) else s.sek := by cases k <;> rfl
@[simp] theorem State.setSlot_smk (s : State) (k : Slot) (v : Bytes) :
    (s.setSlot k v).smk = if k = .smk then BitVec.ofNat 256 (intBE v) else s.smk := by cases k <;> rfl
@[simp] theorem State.setSlot_gkey (s : State) (k : Slot) (v : Bytes) :
    (s.setSlot k v).gkey = s.gkey := by cases k <;> rfl
@[simp] theorem State.setSlot_fs (s : State) (k : Slot) (v : Bytes) : (s.setSlot k v).fs = s.fs := by cases k <;> rfl
@[simp] theorem State.setSlot_params (s : State) (k : Slot) (v : Bytes) :
    (s.setSlot k v).params = s.params := by cases k <;> rfl
@[simp] theorem State.setSlot_pending (s : State) (k : Slot) (v : Bytes) :
    (s.setSlot k v).pending = s.pending := by cases k <;> rfl
@[simp] theorem State.setSlot_answer (s : State) (k : Slot) (v : Bytes) :
    (s.setSlot k v).answer = s.answer := by cases k <;> rfl
@[simp] theorem State.setSlot_rngTape (s : State) (k : Slot) (v : Bytes) :
    (s.setSlot k v).rngTape = s.rngTape := by cases k <;> rfl
@[simp] theorem State.setSlot_rngCount (s : State) (k : Slot) (v : Bytes) :
    (s.setSlot k v).rngCount = s.rngCount := by cases k <;> rfl

/-! ### The cipher key loaded (R186). -/

@[simp] theorem State.setGkey_status (s : State) (k : BitVec 256) : (s.setGkey k).status = s.status := rfl
@[simp] theorem State.setGkey_einfo0 (s : State) (k : BitVec 256) : (s.setGkey k).einfo0 = s.einfo0 := rfl
@[simp] theorem State.setGkey_einfo1 (s : State) (k : BitVec 256) : (s.setGkey k).einfo1 = s.einfo1 := rfl
@[simp] theorem State.setGkey_einfo2 (s : State) (k : BitVec 256) : (s.setGkey k).einfo2 = s.einfo2 := rfl
@[simp] theorem State.setGkey_esticky (s : State) (k : BitVec 256) : (s.setGkey k).esticky = s.esticky := rfl
@[simp] theorem State.setGkey_cfg (s : State) (k : BitVec 256) : (s.setGkey k).cfg = s.cfg := rfl
@[simp] theorem State.setGkey_kstat (s : State) (k : BitVec 256) : (s.setGkey k).kstat = setBit s.kstat 3 := rfl
@[simp] theorem State.setGkey_ilen (s : State) (k : BitVec 256) : (s.setGkey k).ilen = s.ilen := rfl
@[simp] theorem State.setGkey_olen (s : State) (k : BitVec 256) : (s.setGkey k).olen = s.olen := rfl
@[simp] theorem State.setGkey_pos (s : State) (k : BitVec 256) : (s.setGkey k).pos = s.pos := rfl
@[simp] theorem State.setGkey_limit (s : State) (k : BitVec 256) : (s.setGkey k).limit = s.limit := rfl
@[simp] theorem State.setGkey_res (s : State) (k : BitVec 256) : (s.setGkey k).res = s.res := rfl
@[simp] theorem State.setGkey_slen (s : State) (k : BitVec 256) : (s.setGkey k).slen = s.slen := rfl
@[simp] theorem State.setGkey_llen (s : State) (k : BitVec 256) : (s.setGkey k).llen = s.llen := rfl
@[simp] theorem State.setGkey_ssel (s : State) (k : BitVec 256) : (s.setGkey k).ssel = s.ssel := rfl
@[simp] theorem State.setGkey_hcode (s : State) (k : BitVec 256) : (s.setGkey k).hcode = s.hcode := rfl
@[simp] theorem State.setGkey_hlen (s : State) (k : BitVec 256) : (s.setGkey k).hlen = s.hlen := rfl
@[simp] theorem State.setGkey_hclient (s : State) (k : BitVec 256) : (s.setGkey k).hclient = s.hclient := rfl
@[simp] theorem State.setGkey_hid (s : State) (k : BitVec 256) : (s.setGkey k).hid = s.hid := rfl
@[simp] theorem State.setGkey_ibuf (s : State) (k : BitVec 256) : (s.setGkey k).ibuf = s.ibuf := rfl
@[simp] theorem State.setGkey_obuf (s : State) (k : BitVec 256) : (s.setGkey k).obuf = s.obuf := rfl
@[simp] theorem State.setGkey_secret (s : State) (k : BitVec 256) : (s.setGkey k).secret = s.secret := rfl
@[simp] theorem State.setGkey_lbuf (s : State) (k : BitVec 256) : (s.setGkey k).lbuf = s.lbuf := rfl
@[simp] theorem State.setGkey_pmk (s : State) (k : BitVec 256) : (s.setGkey k).pmk = s.pmk := rfl
@[simp] theorem State.setGkey_sek (s : State) (k : BitVec 256) : (s.setGkey k).sek = s.sek := rfl
@[simp] theorem State.setGkey_smk (s : State) (k : BitVec 256) : (s.setGkey k).smk = s.smk := rfl
@[simp] theorem State.setGkey_gkey (s : State) (k : BitVec 256) : (s.setGkey k).gkey = k := rfl
@[simp] theorem State.setGkey_fs (s : State) (k : BitVec 256) : (s.setGkey k).fs = s.fs := rfl
@[simp] theorem State.setGkey_params (s : State) (k : BitVec 256) : (s.setGkey k).params = s.params := rfl
@[simp] theorem State.setGkey_pending (s : State) (k : BitVec 256) : (s.setGkey k).pending = s.pending := rfl
@[simp] theorem State.setGkey_answer (s : State) (k : BitVec 256) : (s.setGkey k).answer = s.answer := rfl
@[simp] theorem State.setGkey_rngTape (s : State) (k : BitVec 256) : (s.setGkey k).rngTape = s.rngTape := rfl
@[simp] theorem State.setGkey_rngCount (s : State) (k : BitVec 256) : (s.setGkey k).rngCount = s.rngCount := rfl

/-! ### The port has answered (R62). -/

@[simp] theorem State.answered_status (s : State) (a : Answer) : (s.answered a).status = s.status := rfl
@[simp] theorem State.answered_einfo0 (s : State) (a : Answer) : (s.answered a).einfo0 = s.einfo0 := rfl
@[simp] theorem State.answered_einfo1 (s : State) (a : Answer) : (s.answered a).einfo1 = s.einfo1 := rfl
@[simp] theorem State.answered_einfo2 (s : State) (a : Answer) : (s.answered a).einfo2 = s.einfo2 := rfl
@[simp] theorem State.answered_esticky (s : State) (a : Answer) : (s.answered a).esticky = s.esticky := rfl
@[simp] theorem State.answered_cfg (s : State) (a : Answer) : (s.answered a).cfg = s.cfg := rfl
@[simp] theorem State.answered_kstat (s : State) (a : Answer) : (s.answered a).kstat = s.kstat := rfl
@[simp] theorem State.answered_ilen (s : State) (a : Answer) : (s.answered a).ilen = s.ilen := rfl
@[simp] theorem State.answered_olen (s : State) (a : Answer) : (s.answered a).olen = s.olen := rfl
@[simp] theorem State.answered_pos (s : State) (a : Answer) : (s.answered a).pos = s.pos := rfl
@[simp] theorem State.answered_limit (s : State) (a : Answer) : (s.answered a).limit = s.limit := rfl
@[simp] theorem State.answered_res (s : State) (a : Answer) : (s.answered a).res = s.res := rfl
@[simp] theorem State.answered_slen (s : State) (a : Answer) : (s.answered a).slen = s.slen := rfl
@[simp] theorem State.answered_llen (s : State) (a : Answer) : (s.answered a).llen = s.llen := rfl
@[simp] theorem State.answered_ssel (s : State) (a : Answer) : (s.answered a).ssel = s.ssel := rfl
@[simp] theorem State.answered_hcode (s : State) (a : Answer) : (s.answered a).hcode = s.hcode := rfl
@[simp] theorem State.answered_hlen (s : State) (a : Answer) : (s.answered a).hlen = s.hlen := rfl
@[simp] theorem State.answered_hclient (s : State) (a : Answer) : (s.answered a).hclient = s.hclient := rfl
@[simp] theorem State.answered_hid (s : State) (a : Answer) : (s.answered a).hid = s.hid := rfl
@[simp] theorem State.answered_ibuf (s : State) (a : Answer) : (s.answered a).ibuf = s.ibuf := rfl
@[simp] theorem State.answered_obuf (s : State) (a : Answer) : (s.answered a).obuf = s.obuf := rfl
@[simp] theorem State.answered_secret (s : State) (a : Answer) : (s.answered a).secret = s.secret := rfl
@[simp] theorem State.answered_lbuf (s : State) (a : Answer) : (s.answered a).lbuf = s.lbuf := rfl
@[simp] theorem State.answered_pmk (s : State) (a : Answer) : (s.answered a).pmk = s.pmk := rfl
@[simp] theorem State.answered_sek (s : State) (a : Answer) : (s.answered a).sek = s.sek := rfl
@[simp] theorem State.answered_smk (s : State) (a : Answer) : (s.answered a).smk = s.smk := rfl
@[simp] theorem State.answered_gkey (s : State) (a : Answer) : (s.answered a).gkey = s.gkey := rfl
@[simp] theorem State.answered_fs (s : State) (a : Answer) : (s.answered a).fs = s.fs := rfl
@[simp] theorem State.answered_params (s : State) (a : Answer) : (s.answered a).params = s.params := rfl
@[simp] theorem State.answered_pending (s : State) (a : Answer) : (s.answered a).pending = s.pending := rfl
@[simp] theorem State.answered_answer (s : State) (a : Answer) : (s.answered a).answer = a := rfl
@[simp] theorem State.answered_rngTape (s : State) (a : Answer) : (s.answered a).rngTape = s.rngTape := rfl
@[simp] theorem State.answered_rngCount (s : State) (a : Answer) : (s.answered a).rngCount = s.rngCount := rfl

/-! ### One host action taken. -/

@[simp] theorem State.withPending_status (s : State) (rest : List HostAction) :
    (s.withPending rest).status = s.status := rfl
@[simp] theorem State.withPending_einfo0 (s : State) (rest : List HostAction) :
    (s.withPending rest).einfo0 = s.einfo0 := rfl
@[simp] theorem State.withPending_einfo1 (s : State) (rest : List HostAction) :
    (s.withPending rest).einfo1 = s.einfo1 := rfl
@[simp] theorem State.withPending_einfo2 (s : State) (rest : List HostAction) :
    (s.withPending rest).einfo2 = s.einfo2 := rfl
@[simp] theorem State.withPending_esticky (s : State) (rest : List HostAction) :
    (s.withPending rest).esticky = s.esticky := rfl
@[simp] theorem State.withPending_cfg (s : State) (rest : List HostAction) : (s.withPending rest).cfg = s.cfg := rfl
@[simp] theorem State.withPending_kstat (s : State) (rest : List HostAction) :
    (s.withPending rest).kstat = s.kstat := rfl
@[simp] theorem State.withPending_ilen (s : State) (rest : List HostAction) : (s.withPending rest).ilen = s.ilen := rfl
@[simp] theorem State.withPending_olen (s : State) (rest : List HostAction) : (s.withPending rest).olen = s.olen := rfl
@[simp] theorem State.withPending_pos (s : State) (rest : List HostAction) : (s.withPending rest).pos = s.pos := rfl
@[simp] theorem State.withPending_limit (s : State) (rest : List HostAction) :
    (s.withPending rest).limit = s.limit := rfl
@[simp] theorem State.withPending_res (s : State) (rest : List HostAction) : (s.withPending rest).res = s.res := rfl
@[simp] theorem State.withPending_slen (s : State) (rest : List HostAction) : (s.withPending rest).slen = s.slen := rfl
@[simp] theorem State.withPending_llen (s : State) (rest : List HostAction) : (s.withPending rest).llen = s.llen := rfl
@[simp] theorem State.withPending_ssel (s : State) (rest : List HostAction) : (s.withPending rest).ssel = s.ssel := rfl
@[simp] theorem State.withPending_hcode (s : State) (rest : List HostAction) :
    (s.withPending rest).hcode = s.hcode := rfl
@[simp] theorem State.withPending_hlen (s : State) (rest : List HostAction) : (s.withPending rest).hlen = s.hlen := rfl
@[simp] theorem State.withPending_hclient (s : State) (rest : List HostAction) :
    (s.withPending rest).hclient = s.hclient := rfl
@[simp] theorem State.withPending_hid (s : State) (rest : List HostAction) : (s.withPending rest).hid = s.hid := rfl
@[simp] theorem State.withPending_ibuf (s : State) (rest : List HostAction) : (s.withPending rest).ibuf = s.ibuf := rfl
@[simp] theorem State.withPending_obuf (s : State) (rest : List HostAction) : (s.withPending rest).obuf = s.obuf := rfl
@[simp] theorem State.withPending_secret (s : State) (rest : List HostAction) :
    (s.withPending rest).secret = s.secret := rfl
@[simp] theorem State.withPending_lbuf (s : State) (rest : List HostAction) : (s.withPending rest).lbuf = s.lbuf := rfl
@[simp] theorem State.withPending_pmk (s : State) (rest : List HostAction) : (s.withPending rest).pmk = s.pmk := rfl
@[simp] theorem State.withPending_sek (s : State) (rest : List HostAction) : (s.withPending rest).sek = s.sek := rfl
@[simp] theorem State.withPending_smk (s : State) (rest : List HostAction) : (s.withPending rest).smk = s.smk := rfl
@[simp] theorem State.withPending_gkey (s : State) (rest : List HostAction) : (s.withPending rest).gkey = s.gkey := rfl
@[simp] theorem State.withPending_fs (s : State) (rest : List HostAction) : (s.withPending rest).fs = s.fs := rfl
@[simp] theorem State.withPending_params (s : State) (rest : List HostAction) :
    (s.withPending rest).params = s.params := rfl
@[simp] theorem State.withPending_pending (s : State) (rest : List HostAction) :
    (s.withPending rest).pending = rest := rfl
@[simp] theorem State.withPending_answer (s : State) (rest : List HostAction) :
    (s.withPending rest).answer = s.answer := rfl
@[simp] theorem State.withPending_rngTape (s : State) (rest : List HostAction) :
    (s.withPending rest).rngTape = s.rngTape := rfl
@[simp] theorem State.withPending_rngCount (s : State) (rest : List HostAction) :
    (s.withPending rest).rngCount = s.rngCount := rfl

end Sys2Proof.Machine
end

