-- ==== Sys2Proof/Laws/Ops.lean ====
section
/-! SUPPORT. For each shared operation one lemma that says everything it can do. A meaning is `finish s e` for an
ending `e`; the lemmas about an ending list its cases, each with the test that selects it. -/

namespace Sys2Proof.Machine

/-! ### Completion (R245, R249, R250) -/

/-- A meaning answers the completed state, and nothing else. -/
theorem finish_eq_next (s t : State) (e : Ending) : finish s e = .next t ↔ s.complete e = t := by
  simp [finish]

@[simp] theorem complete_ok (s t : State) (out : Bytes) (res : Word) :
    s.complete (.ok t out res) = t.okCompletion out res := rfl

@[simp] theorem complete_done (s t : State) : s.complete (done t) = t.okCompletion [] 0 := rfl

@[simp] theorem complete_raise (s : State) (c : FaultCode) (i0 i1 i2 : Nat) :
    s.complete (.raise c i0 i1 i2) = s.faultEntry c i0 i1 i2 := rfl

/-- An OK completion without a byte output leaves OBUF. -/
@[simp] theorem writeBytes_nil (m : Memory) (a : Nat) : m.writeBytes a [] = m := rfl

theorem FaultCode.code_pos (c : FaultCode) : 1 ≤ c.code := by cases c <;> decide

theorem FaultCode.code_le (c : FaultCode) : c.code ≤ 16 := by cases c <;> decide

theorem FaultCode.code_injective (c c' : FaultCode) (h : c.code = c'.code) : c = c' := by
  revert h; cases c <;> cases c' <;> decide

/-- `STATUS.ERR` after a fault is its code (R250). -/
@[simp] theorem faultEntry_err (s : State) (c : FaultCode) (i0 i1 i2 : Nat) :
    (s.faultEntry c i0 i1 i2).err = BitVec.ofNat 8 c.code := by cases c <;> rfl

theorem faultEntry_err_ne_zero (s : State) (c : FaultCode) (i0 i1 i2 : Nat) :
    (s.faultEntry c i0 i1 i2).err ≠ 0 := by rw [faultEntry_err]; cases c <;> decide

@[simp] theorem okCompletion_err (s : State) (out : Bytes) (res : Word) : (s.okCompletion out res).err = 0 := by
  show BitVec.extractLsb' 0 8 (0 : Word) = 0
  decide

/-! ### Words with one more bit -/

theorem setBit_getLsbD (w : Word) (k j : Nat) (hk : k < 32) :
    (setBit w k).getLsbD j = (w.getLsbD j || decide (j = k)) := by
  have h1 : (1#32 : Word).getLsbD (j - k) = decide (j - k = 0) := by simp [BitVec.getLsbD_one]
  rw [setBit, BitVec.getLsbD_or, BitVec.getLsbD_shiftLeft, h1]
  by_cases hj : j < 32
  · by_cases hlt : j < k
    · simp [hj, hlt, show j ≠ k by omega]
    · by_cases he : j = k
      · simp [he, hk]
      · simp [hj, hlt, he, show ¬ j - k = 0 by omega]
  · simp [hj, show j ≠ k by omega]

theorem setBit_getElem (w : Word) (k j : Nat) (hk : k < 32) (hj : j < 32) :
    (setBit w k)[j] = (w[j] || decide (j = k)) := setBit_getLsbD w k j hk

/-! ### The cursor (R105 to R113) -/

theorem readScalar_cases (s : State) (ord : ReadOrder) (k : Nat) :
    (s.remaining < k ∧ readScalar s ord k = .raise .underrun s.remaining k 0) ∨
    (k ≤ s.remaining ∧ readScalar s ord k =
      .ok (s.setPos (s.pos.toNat + k)) [] (BitVec.ofNat 32 (readInt (s.order ord) (s.atCursor k)))) := by
  unfold readScalar; split
  · exact .inl ⟨‹_›, rfl⟩
  · exact .inr ⟨by omega, rfl⟩

theorem readOut_cases (s : State) (n : Nat) :
    (s.params.obufBytes < n ∧ readOut s n = .raise .capacity n s.params.obufBytes 0) ∨
    (n ≤ s.params.obufBytes ∧ readOut s n = .ok (s.setPos (s.pos.toNat + n)) (s.atCursor n) 0) := by
  unfold readOut; split
  · exact .inl ⟨‹_›, rfl⟩
  · exact .inr ⟨by omega, rfl⟩

theorem moveTo_cases (s : State) (target : Nat) :
    (s.limit.toNat < target ∧ moveTo s target = .raise .invPos target s.limit.toNat 0) ∨
    (target ≤ s.limit.toNat ∧ moveTo s target = done (s.setPos target)) := by
  unfold moveTo; split
  · exact .inl ⟨‹_›, rfl⟩
  · exact .inr ⟨by omega, rfl⟩

@[simp] theorem atCursor_length (s : State) (n : Nat) : (s.atCursor n).length = n := by simp [State.atCursor]

@[simp] theorem input_length (s : State) : s.input.length = s.ilen.toNat := by simp [State.input]

@[simp] theorem secretBytes_length (s : State) : s.secretBytes.length = s.slen.toNat := by simp [State.secretBytes]

@[simp] theorem label_length (s : State) : s.label.length = s.llen.toNat := by simp [State.label]

/-! ### The codec (R128 to R130) -/

theorem setFixed_cases (s : State) (f size : Nat) :
    (s.ilen.toNat ≠ size ∧ setFixed s f size = .raise .fieldLen f size s.ilen.toNat) ∨
    (s.ilen.toNat = size ∧ setFixed s f size = done { s with fs := s.fs.set f s.input }) := by
  unfold setFixed; split
  · exact .inl ⟨‹_›, rfl⟩
  · exact .inr ⟨by omega, rfl⟩

theorem setVar_cases (s : State) (f lf : Nat) :
    (s.params.fsBytes < s.fsTotal - (s.field f).length + s.ilen.toNat ∧
      setVar s f lf = .raise .capacity (s.fsTotal - (s.field f).length + s.ilen.toNat) s.params.fsBytes 0) ∨
    (s.fsTotal - (s.field f).length + s.ilen.toNat ≤ s.params.fsBytes ∧ setVar s f lf =
      done { s with fs := (s.fs.set f s.input).set lf (beBytes (lenSize s.openDesc lf) s.ilen.toNat) }) := by
  unfold setVar; simp only; split
  · exact .inl ⟨‹_›, rfl⟩
  · exact .inr ⟨by omega, rfl⟩

theorem outOrCapacity_cases (s : State) (out : Bytes) :
    (s.params.obufBytes < out.length ∧
      outOrCapacity s out = .raise .capacity out.length s.params.obufBytes 0) ∨
    (out.length ≤ s.params.obufBytes ∧ outOrCapacity s out = .ok s out 0) := by
  unfold outOrCapacity; split
  · exact .inl ⟨‹_›, rfl⟩
  · exact .inr ⟨by omega, rfl⟩

/-! ### The header (R156 to R159) -/

theorem parseHeader_cases (s : State) (o : ByteOrder) :
    (s.ilen.toNat ≠ 4 ∧ parseHeader s o = .raise .hdr s.ilen.toNat 0 0) ∨
    (s.ilen.toNat = 4 ∧ parseHeader s o = done (s.setHeader (s.inputWord o))) := by
  unfold parseHeader; split
  · exact .inl ⟨‹_›, rfl⟩
  · exact .inr ⟨by omega, rfl⟩

theorem checkStatus_cases (s : State) (w : Word) :
    (w = s.params.unknownCmdCode ∧ checkStatus s w = .raise .unkCmd w.toNat 0 0) ∨
    (w ≠ s.params.unknownCmdCode ∧ w ≠ 0 ∧ checkStatus s w = .raise .cmdFail w.toNat 0 0) ∨
    (w ≠ s.params.unknownCmdCode ∧ w = 0 ∧ checkStatus s w = done s) := by
  unfold checkStatus
  split
  · exact .inl ⟨‹_›, rfl⟩
  · split
    · exact .inr (.inl ⟨‹_›, ‹_›, rfl⟩)
    · exact .inr (.inr ⟨‹_›, by simpa using ‹¬w ≠ 0›, rfl⟩)

/-! ### Keys and the cipher (R172 to R175, R187, R190, R194) -/

theorem deriveSlot_cases (s : State) (k : Slot) :
    (s.slotValid k = true ∧ deriveSlot s k = .raise .keyState 1 (slotNumber k) 0) ∨
    (s.slotValid k = false ∧ s.slen = 0 ∧ deriveSlot s k = .raise .keyState 3 0 0) ∨
    (s.slotValid k = false ∧ s.slen ≠ 0 ∧ deriveSlot s k =
      done (s.setSlot k (kdf s.params.kdfHash s.secretBytes (slotLabel k) (slotLength k)))) := by
  unfold deriveSlot
  split
  · exact .inl ⟨‹_›, rfl⟩
  · have h : s.slotValid k = false := by simpa using ‹¬s.slotValid k = true›
    split
    · exact .inr (.inl ⟨h, ‹_›, rfl⟩)
    · exact .inr (.inr ⟨h, ‹_›, rfl⟩)

theorem missingSetting_cases (s : State) :
    (s.gkeyValid = false ∧ s.missingSetting = some 1) ∨
    (s.gkeyValid = true ∧ s.prov = 0 ∧ s.missingSetting = some 2) ∨
    (s.gkeyValid = true ∧ s.prov ≠ 0 ∧ s.ord = 0 ∧ s.missingSetting = some 3) ∨
    (s.gkeyValid = true ∧ s.prov ≠ 0 ∧ s.ord ≠ 0 ∧ s.missingSetting = none) := by
  unfold State.missingSetting
  cases s.gkeyValid <;> by_cases hp : s.prov = 0#2 <;> by_cases ho : s.ord = 0#2 <;> simp [hp, ho]

theorem whenConfigured_cases (s : State) (e : Ending) :
    (∃ which, s.missingSetting = some which ∧ whenConfigured s e = .raise .notConf which 0 0) ∨
    (s.missingSetting = none ∧ whenConfigured s e = e) := by
  unfold whenConfigured
  cases h : s.missingSetting with
  | none => exact .inr ⟨rfl, rfl⟩
  | some w => exact .inl ⟨w, rfl, rfl⟩

theorem encryptInput_cases (s : State) :
    (s.params.obufBytes < s.ilen.toNat + 32 ∧
      encryptInput s = .raise .capacity (s.ilen.toNat + 32) s.params.obufBytes 0) ∨
    (s.ilen.toNat + 32 ≤ s.params.obufBytes ∧
      encryptInput s = .ok s.afterDraw (frame s.cipherOrder s.gkey s.nextDraw s.input) 0) := by
  unfold encryptInput; split
  · exact .inl ⟨‹_›, rfl⟩
  · exact .inr ⟨by omega, rfl⟩

/-- R193, checks 1 to 4, as one test: checks 3 and 4 say that the frame is at least 32 bytes long. -/
theorem frameShapeOk_iff (o : ByteOrder) (f : Bytes) :
    frameShapeOk o f = true ↔ 32 ≤ f.length ∧ readInt o (f.take 4) = 12 := by
  unfold frameShapeOk
  by_cases h0 : f.length < 4
  · simp [h0]; omega
  · by_cases h1 : readInt o (f.take 4) = 12
    · by_cases h2 : f.length - 4 < 12
      · simp [h0, h1, h2]; omega
      · by_cases h3 : f.length - 16 < 16
        · simp [h0, h1, h2, h3]; omega
        · simp [h0, h1, h2, h3]; omega
    · simp [h0, h1]

theorem frameCiphertext_length (f : Bytes) : (frameCiphertext f).length = f.length - 32 := by
  simp [frameCiphertext]; omega

theorem decryptInput_cases (s : State) :
    (frameShapeOk s.cipherOrder s.input = false ∧ decryptInput s = .raise .decrypt 0 0 0) ∨
    (frameShapeOk s.cipherOrder s.input = true ∧ s.params.obufBytes < s.ilen.toNat - 32 ∧
      decryptInput s = .raise .capacity (s.ilen.toNat - 32) s.params.obufBytes 0) ∨
    (frameShapeOk s.cipherOrder s.input = true ∧ s.ilen.toNat - 32 ≤ s.params.obufBytes ∧
      gcmOpen s.gkey (frameIv s.input) (frameCiphertext s.input) (frameTag s.input) = none ∧
      decryptInput s = .raise .decrypt 0 0 0) ∨
    (∃ p, frameShapeOk s.cipherOrder s.input = true ∧ s.ilen.toNat - 32 ≤ s.params.obufBytes ∧
      gcmOpen s.gkey (frameIv s.input) (frameCiphertext s.input) (frameTag s.input) = some p ∧
      decryptInput s = .ok s p 0) := by
  have hl : (frameCiphertext s.input).length = s.ilen.toNat - 32 := by rw [frameCiphertext_length, input_length]
  unfold decryptInput
  simp only [hl]
  cases hs : frameShapeOk s.cipherOrder s.input with
  | false => simp
  | true =>
    by_cases hc : s.params.obufBytes < s.ilen.toNat - 32
    · simp [hc]
    · have hc' : s.ilen.toNat - 32 ≤ s.params.obufBytes := by omega
      cases ho : gcmOpen s.gkey (frameIv s.input) (frameCiphertext s.input) (frameTag s.input) with
      | none => simp [hc, hc']
      | some p => simp [hc, hc']

end Sys2Proof.Machine
end

