-- ==== Sys2Proof/Laws/Primitives.lean ====
section
/-! SUPPORT. Lengths of what the primitives give (48_crypto_primitives.md), and of what the commands output. -/

namespace Sys2Proof.Machine

@[simp] theorem blockBytes_length (x : Block) : (blockBytes x).length = 16 := by simp [blockBytes]

@[simp] theorem WordFour.bytes_length (x : WordFour) : x.bytes.length = 32 := by
  simp [WordFour.bytes, WordFour.words]

@[simp] theorem sha384_length (m : Bytes) : (sha384 m).length = 48 := by simp [sha384]

@[simp] theorem hmacSha384_length (key msg : Bytes) : (hmacSha384 key msg).length = 48 := by simp [hmacSha384]

/-- Whatever the hash, 48 bytes of the code are there to take (R167, R168). -/
@[simp] theorem kdfHmac_length (hash : KdfHash) (key msg : Bytes) : (kdfHmac hash key msg).length = 48 := by
  cases hash <;> simp [kdfHmac]

@[simp] theorem kdf_length (hash : KdfHash) (secret l : Bytes) (n : Nat) : (kdf hash secret l n).length = min n 48 := by
  simp [kdf]

theorem slotBytes_length (s : State) (k : Slot) : (s.slotBytes k).length = slotLength k := by
  cases k <;> simp [State.slotBytes, slotLength]

theorem gctrPieces_length (k : BitVec 256) (cb : Block) (fuel : Nat) (x : Bytes) (h : x.length ≤ fuel) :
    (gctrPieces k cb fuel x).length = x.length := by
  induction fuel generalizing cb x with
  | zero => simp at h; simp [gctrPieces, h]
  | succ n ih =>
    unfold gctrPieces
    split
    · next he => simp [List.isEmpty_iff.1 he]
    · next he =>
      have hx : x ≠ [] := by simpa using he
      have hpos := List.length_pos_iff.2 hx
      rw [List.length_append, ih _ _ (by simp; omega)]
      simp; omega

/-- The output of GCTR is as long as the input (R226). -/
@[simp] theorem gctr_length (k : BitVec 256) (icb : Block) (x : Bytes) : (gctr k icb x).length = x.length :=
  gctrPieces_length k icb x.length x le_rfl

@[simp] theorem gcmTag_length (k : BitVec 256) (iv : BitVec 96) (c : Bytes) : (gcmTag k iv c).length = 16 := by
  simp [gcmTag]

/-- A frame is 32 bytes longer than its plaintext (R188). -/
@[simp] theorem frame_length (o : ByteOrder) (k : BitVec 256) (iv : BitVec 96) (p : Bytes) :
    (frame o k iv p).length = p.length + 32 := by
  simp [frame, gcmSeal]; omega

/-- What GCM.DEC gives is as long as the ciphertext. -/
theorem gcmOpen_length (k : BitVec 256) (iv : BitVec 96) (c t p : Bytes) (h : gcmOpen k iv c t = some p) :
    p.length = c.length := by
  unfold gcmOpen at h
  split at h
  · cases h
  · cases h; simp

/-! ### Structure codec -/

/-- `conv` keeps the length (R126). -/
@[simp] theorem conv_length (a : Actor) (x : FieldDesc) (v : Bytes) : (conv a x v).length = v.length := by
  unfold conv; split <;> simp

@[simp] theorem freshFields_length (d : Descriptor) : (freshFields d).length = d.length := by simp [freshFields]

/-- The bytes of a new builder's fields are those its structure holds for certain (R46 (e)). -/
theorem freshFields_total (d : Descriptor) : ((freshFields d).map List.length).sum = (d.map FieldDesc.fixedSize).sum := by
  simp [freshFields, Function.comp_def]

/-- `wantedBytes` is what the read phase asks for, with the values read so far taken from a longer list. -/
theorem wantedBytes_var (x : FieldDesc) (lf : Nat) (values : List Bytes) (h : x.kind = .var lf) :
    wantedBytes x values = intBE (values.getD lf []) := by simp [wantedBytes, h]

theorem isVar_iff (x : FieldDesc) : isVar x = true ↔ ∃ lf, x.kind = .var lf := by
  unfold isVar; cases x.kind <;> simp

/-- `E_PARSE`'s third information word: the cause in the low byte, the field index above it (R141). -/
theorem parseInfo_eq (cause f : Nat) (h : cause < 256) : parseInfo cause f = cause + 256 * f := by
  have := Nat.shiftLeft_add_eq_or_of_lt (show cause < 2 ^ 8 from h) f
  rw [parseInfo, Nat.or_comm, ← this, Nat.shiftLeft_eq]; omega

end Sys2Proof.Machine
end

