-- ==== Sys2Proof/Laws/Exec.lean ====
section
/-! SUPPORT. Once for all commands: how a command ends, and what it has written when it ends OK. Statements about what
commands leave alone cite `exec_cases` and split `Writes`; they unfold no meaning. -/

namespace Sys2Proof.Machine

/-- The state `t` is `s` with the own writes of the command `i`, when `i` ends OK. -/
def Writes (i : Instr) (s t : State) : Prop :=
  match i with
  | .nop => t = s
  | .srst => t = s.resetBlock
  | .kclr => t = s.clearKeys
  | .curWrap => t = { s with limit := s.ilen, pos := 0 }
  | .curRd16 _ => 2 ≤ s.remaining ∧ t = s.setPos (s.pos.toNat + 2)
  | .curRd32 _ => 4 ≤ s.remaining ∧ t = s.setPos (s.pos.toNat + 4)
  | .curRdn n => n.toNat ≤ s.remaining ∧ t = s.setPos (s.pos.toNat + n.toNat)
  | .curRdx n => n.toNat ≤ s.remaining ∧ t = s.setPos (s.pos.toNat + n.toNat)
  | .curSkip n => s.pos.toNat + n.toNat ≤ s.limit.toNat ∧ t = s.setPos (s.pos.toNat + n.toNat)
  | .curSeek n => n.toNat ≤ s.limit.toNat ∧ t = s.setPos n.toNat
  | .emapGet _ _ _ => t = s
  | .emapSize _ _ => t = s
  | .stNew id => ∃ d, s.desc id = some d ∧ t = s.openBuilder id (freshFields d)
  | .stSetf f => s.builderOpen = true ∧ ∃ x, s.openDesc[f.toNat]? = some x ∧
      ((x.kind = .fixed s.ilen.toNat ∧ t = { s with fs := s.fs.set f.toNat s.input }) ∨
        ∃ lf, x.kind = .var lf ∧ s.fsTotal - (s.field f.toNat).length + s.ilen.toNat ≤ s.params.fsBytes ∧
          t = { s with fs := (s.fs.set f.toNat s.input).set lf (beBytes (lenSize s.openDesc lf) s.ilen.toNat) })
  | .stGetf _ => t = s
  | .stBuild _ => t = s
  | .stParse id a => ∃ d values, s.desc id = some d ∧ readFields a d [] s.input = .ok (values, []) ∧
      badMagic 0 d values = none ∧ s.ilen.toNat ≤ s.params.fsBytes ∧ t = s.openBuilder id values
  | .hdrBuild => t = s
  | .hdrBuildt => t = s
  | .hdrParse => t = s.setHeader (s.inputWord .big)
  | .hdrParset => t = s.setHeader (s.inputWord .little)
  | .hdrValid _ => t = s
  | .kdfDerive _ => t = s
  | .kdfPmk => s.slotValid .pmk = false ∧ ∃ v, t = s.setSlot .pmk v
  | .kdfSek => s.slotValid .sek = false ∧ ∃ v, t = s.setSlot .sek v
  | .kdfSmk => s.slotValid .smk = false ∧ ∃ v, t = s.setSlot .smk v
  | .keyRd _ => t = s
  | .gkeyLd _ => ∃ k, t = s.setGkey k
  | .gcmEnc => t = s.afterDraw
  | .gcmDec => t = s

/-- The command `i`, run from `s`, ends with a fault other than `E_KDF` (R176), or ends OK having written what `Writes`
says and with an output that fits OBUF. -/
def EndsWell (i : Instr) (s : State) (e : Ending) : Prop :=
  match e with
  | .raise c _ _ _ => c ≠ .kdf
  | .ok t out _ => Writes i s t ∧ out.length ≤ s.params.obufBytes

theorem endsWell_readScalar (i : Instr) (s : State) (o : ReadOrder) (k : Nat)
    (h : k ≤ s.remaining → Writes i s (s.setPos (s.pos.toNat + k))) : EndsWell i s (readScalar s o k) := by
  rcases readScalar_cases s o k with ⟨-, e⟩ | ⟨hk, e⟩ <;> rw [e]
  · exact FaultCode.noConfusion
  · exact ⟨h hk, Nat.zero_le _⟩

theorem endsWell_readOut (i : Instr) (s : State) (n : Nat) (h : Writes i s (s.setPos (s.pos.toNat + n))) :
    EndsWell i s (readOut s n) := by
  rcases readOut_cases s n with ⟨-, e⟩ | ⟨hn, e⟩ <;> rw [e]
  · exact FaultCode.noConfusion
  · exact ⟨h, by simpa using hn⟩

theorem endsWell_done (i : Instr) (s t : State) (h : Writes i s t) : EndsWell i s (done t) := ⟨h, Nat.zero_le _⟩

theorem endsWell_moveTo (i : Instr) (s : State) (n : Nat) (h : n ≤ s.limit.toNat → Writes i s (s.setPos n)) :
    EndsWell i s (moveTo s n) := by
  rcases moveTo_cases s n with ⟨-, e⟩ | ⟨hn, e⟩ <;> rw [e]
  · exact FaultCode.noConfusion
  · exact endsWell_done _ _ _ (h hn)

theorem endsWell_outOrCapacity (i : Instr) (s : State) (out : Bytes) (h : Writes i s s) :
    EndsWell i s (outOrCapacity s out) := by
  rcases outOrCapacity_cases s out with ⟨-, e⟩ | ⟨hn, e⟩ <;> rw [e]
  · exact FaultCode.noConfusion
  · exact ⟨h, hn⟩

theorem endsWell_parseHeader (i : Instr) (s : State) (o : ByteOrder) (h : Writes i s (s.setHeader (s.inputWord o))) :
    EndsWell i s (parseHeader s o) := by
  rcases parseHeader_cases s o with ⟨-, e⟩ | ⟨-, e⟩ <;> rw [e]
  · exact FaultCode.noConfusion
  · exact endsWell_done _ _ _ h

theorem endsWell_deriveSlot (i : Instr) (s : State) (k : Slot)
    (h : s.slotValid k = false → ∀ v, Writes i s (s.setSlot k v)) : EndsWell i s (deriveSlot s k) := by
  rcases deriveSlot_cases s k with ⟨-, e⟩ | ⟨-, -, e⟩ | ⟨hv, -, e⟩ <;> rw [e]
  · exact FaultCode.noConfusion
  · exact FaultCode.noConfusion
  · exact endsWell_done _ _ _ (h hv _)

theorem endsWell_whenConfigured (i : Instr) (s : State) (e : Ending) (h : EndsWell i s e) :
    EndsWell i s (whenConfigured s e) := by
  rcases whenConfigured_cases s e with ⟨w, -, e'⟩ | ⟨-, e'⟩ <;> rw [e']
  · exact FaultCode.noConfusion
  · exact h

theorem endsWell_parseWith (s : State) (id : BitVec 8) (a : Actor) (d : Descriptor) (hd : s.desc id = some d) :
    EndsWell (.stParse id a) s (parseWith s id a d) := by
  unfold parseWith
  cases hr : readFields a d [] s.input with
  | error e => exact FaultCode.noConfusion
  | ok r =>
    obtain ⟨values, rest⟩ := r
    cases hb : badMagic 0 d values with
    | some fv => simp only [hb]; exact FaultCode.noConfusion
    | none =>
      simp only [hb]
      split
      · exact FaultCode.noConfusion
      · next hl =>
        have hrest : rest = [] := by simpa using hl
        subst hrest
        split
        · exact FaultCode.noConfusion
        · next hc => exact endsWell_done _ _ _ ⟨d, values, hd, hr, hb, by omega, rfl⟩

/-- What every command can do, in every state. -/
theorem exec_cases (i : Instr) (s : State) : ∃ e, exec i s = finish s e ∧ EndsWell i s e := by
  have hb := s.params.bounds
  cases i with
  | nop => exact ⟨_, rfl, endsWell_done _ _ _ rfl⟩
  | srst => exact ⟨_, rfl, endsWell_done _ _ _ rfl⟩
  | kclr => exact ⟨_, rfl, endsWell_done _ _ _ rfl⟩
  | curWrap => exact ⟨_, rfl, endsWell_done _ _ _ rfl⟩
  | curRd16 o => exact ⟨_, rfl, endsWell_readScalar _ _ _ _ fun h => ⟨h, rfl⟩⟩
  | curRd32 o => exact ⟨_, rfl, endsWell_readScalar _ _ _ _ fun h => ⟨h, rfl⟩⟩
  | curRdn n =>
    refine ⟨_, rfl, ?_⟩
    split
    · exact FaultCode.noConfusion
    · exact endsWell_readOut _ _ _ ⟨by omega, rfl⟩
  | curRdx n =>
    refine ⟨_, rfl, ?_⟩
    split
    · exact FaultCode.noConfusion
    · split
      · exact FaultCode.noConfusion
      · exact endsWell_readOut _ _ _ ⟨by omega, rfl⟩
  | curSkip n => exact ⟨_, rfl, endsWell_moveTo _ _ _ fun h => ⟨h, rfl⟩⟩
  | curSeek n => exact ⟨_, rfl, endsWell_moveTo _ _ _ fun h => ⟨h, rfl⟩⟩
  | emapGet t f a =>
    refine ⟨_, rfl, ?_⟩
    split
    · exact FaultCode.noConfusion
    · split
      · exact FaultCode.noConfusion
      · exact ⟨rfl, Nat.zero_le _⟩
  | emapSize t a =>
    refine ⟨_, rfl, ?_⟩
    split
    · exact FaultCode.noConfusion
    · exact ⟨rfl, Nat.zero_le _⟩
  | stNew t =>
    refine ⟨_, rfl, ?_⟩
    split
    · exact FaultCode.noConfusion
    · next d hd => exact endsWell_done _ _ _ ⟨d, hd, rfl⟩
  | stSetf f =>
    refine ⟨_, rfl, ?_⟩
    split
    · exact FaultCode.noConfusion
    · next ho =>
      have ho : s.builderOpen = true := by simpa using ho
      split
      · exact FaultCode.noConfusion
      · next x hx =>
        split
        · next size hk =>
          rcases setFixed_cases s f.toNat size with ⟨-, e⟩ | ⟨he, e⟩ <;> rw [e]
          · exact FaultCode.noConfusion
          · exact endsWell_done _ _ _ ⟨ho, x, hx, .inl ⟨he ▸ hk, rfl⟩⟩
        · exact FaultCode.noConfusion
        · next lf hk =>
          rcases setVar_cases s f.toNat lf with ⟨-, e⟩ | ⟨he, e⟩ <;> rw [e]
          · exact FaultCode.noConfusion
          · exact endsWell_done _ _ _ ⟨ho, x, hx, .inr ⟨lf, hk, he, rfl⟩⟩
  | stGetf f =>
    refine ⟨_, rfl, ?_⟩
    split
    · exact FaultCode.noConfusion
    · split
      · exact FaultCode.noConfusion
      · exact endsWell_outOrCapacity _ _ _ rfl
  | stBuild a =>
    refine ⟨_, rfl, ?_⟩
    split
    · exact FaultCode.noConfusion
    · exact endsWell_outOrCapacity _ _ _ rfl
  | stParse t a =>
    refine ⟨_, rfl, ?_⟩
    split
    · exact FaultCode.noConfusion
    · next d hd => exact endsWell_parseWith _ _ _ _ hd
  | hdrBuild => exact ⟨_, rfl, rfl, by simp; omega⟩
  | hdrBuildt => exact ⟨_, rfl, rfl, by simp; omega⟩
  | hdrParse => exact ⟨_, rfl, endsWell_parseHeader _ _ _ rfl⟩
  | hdrParset => exact ⟨_, rfl, endsWell_parseHeader _ _ _ rfl⟩
  | hdrValid o =>
    refine ⟨_, rfl, ?_⟩
    split
    · exact FaultCode.noConfusion
    · rcases checkStatus_cases s (headerField s.params.hdr.code (s.inputWord (orderOfT o)))
        with ⟨-, e⟩ | ⟨-, -, e⟩ | ⟨-, -, e⟩ <;> rw [e]
      · exact FaultCode.noConfusion
      · exact FaultCode.noConfusion
      · exact endsWell_done _ _ _ rfl
  | kdfDerive n =>
    refine ⟨_, rfl, ?_⟩
    split
    · exact FaultCode.noConfusion
    · split
      · exact FaultCode.noConfusion
      · exact ⟨rfl, by simp; omega⟩
  | kdfPmk => exact ⟨_, rfl, endsWell_deriveSlot _ _ _ fun h v => ⟨h, v, rfl⟩⟩
  | kdfSek => exact ⟨_, rfl, endsWell_deriveSlot _ _ _ fun h v => ⟨h, v, rfl⟩⟩
  | kdfSmk => exact ⟨_, rfl, endsWell_deriveSlot _ _ _ fun h v => ⟨h, v, rfl⟩⟩
  | keyRd k =>
    refine ⟨_, rfl, ?_⟩
    split
    · exact FaultCode.noConfusion
    · exact ⟨rfl, by rw [slotBytes_length]; cases k <;> simp [slotLength] <;> omega⟩
  | gkeyLd src =>
    refine ⟨_, rfl, ?_⟩
    cases src with
    | ibuf =>
      simp only
      split
      · exact FaultCode.noConfusion
      · exact endsWell_done _ _ _ ⟨_, rfl⟩
    | sek =>
      simp only
      split
      · exact FaultCode.noConfusion
      · exact endsWell_done _ _ _ ⟨_, rfl⟩
  | gcmEnc =>
    refine ⟨_, rfl, endsWell_whenConfigured _ _ _ ?_⟩
    rcases encryptInput_cases s with ⟨-, e⟩ | ⟨hc, e⟩ <;> rw [e]
    · exact FaultCode.noConfusion
    · exact ⟨rfl, by simpa using hc⟩
  | gcmDec =>
    refine ⟨_, rfl, endsWell_whenConfigured _ _ _ ?_⟩
    rcases decryptInput_cases s with ⟨-, e⟩ | ⟨-, -, e⟩ | ⟨-, -, -, e⟩ | ⟨p, -, hc, ho, e⟩ <;> rw [e]
    · exact FaultCode.noConfusion
    · exact FaultCode.noConfusion
    · exact FaultCode.noConfusion
    · refine ⟨rfl, ?_⟩
      rw [gcmOpen_length _ _ _ _ _ ho, frameCiphertext_length, input_length]
      exact hc

end Sys2Proof.Machine
end

