-- ==== Sys2Proof/Laws/Port.lean ====
section
/-! SUPPORT. What one step does for each kind of host action (20_memory.md R62 to R65), and when a command ends. -/

namespace Sys2Proof.Machine

/-- A command that has answered has either faulted, with a fault other than `E_KDF`, or ended OK. -/
theorem exec_next_cases {i : Instr} {s t : State} (h : exec i s = .next t) :
    (∃ c i0 i1 i2, c ≠ .kdf ∧ t = s.faultEntry c i0 i1 i2) ∨
      ∃ w out res, Writes i s w ∧ out.length ≤ s.params.obufBytes ∧ t = w.okCompletion out res := by
  obtain ⟨e, he, hw⟩ := exec_cases i s
  rw [he, finish_eq_next] at h
  cases e with
  | ok w out res => exact .inr ⟨w, out, res, hw.1, hw.2, h.symm⟩
  | raise c a b d => exact .inl ⟨c, a, b, d, hw, h.symm⟩

theorem step_idle (s : State) (h : s.pending = []) : step s = .next s := by simp [step, h]

theorem step_act (s : State) (a : HostAction) (rest : List HostAction) (h : s.pending = a :: rest) :
    step s = hostAct a (s.withPending rest) := by simp [step, h]

theorem writeRegister_cmd (v : Word) (s : State) : writeRegister .cmd v s = runCommand v (s.answered .done) := rfl

theorem writeRegister_of_ne (r : Reg) (v : Word) (s : State) (h : r ≠ .cmd) :
    writeRegister r v s = .next ((s.writeReg r v).answered .done) := by
  cases r <;> first | rfl | exact absurd rfl h

/-- The only register at address 0 is `CMD` (R61). -/
theorem regAt_eq_cmd (addr : BitVec 20) (h : regAt addr = some .cmd) : addr = 0 := by
  unfold regAt at h
  split at h <;> first | exact BitVec.eq_of_toNat_eq ‹_› | cases h

/-- Everything one step can do: it idles, resets, serves a read, stores in a register or a buffer, runs a command, or
faults on an illegal word. -/
theorem step_cases {s t : State} (h : step s = .next t) :
    (s.pending = [] ∧ t = s) ∨
    ∃ a rest, s.pending = a :: rest ∧
      ((a = .reset ∧ t = (s.withPending rest).resetBlock.answered .idle) ∨
       (∃ addr r, a = .read32 addr ∧ regAt addr = some r ∧
          t = (s.withPending rest).answered (.data (s.readReg r))) ∨
       (∃ addr b i, a = .read8 addr ∧ bufferAt s.params addr = some (b, i) ∧
          t = (s.withPending rest).answered (.data ((s.readBuffer b i).zeroExtend 32))) ∨
       (∃ addr r v, a = .write32 addr v ∧ regAt addr = some r ∧ r ≠ .cmd ∧
          t = ((s.withPending rest).writeReg r v).answered .done) ∨
       (∃ addr v b i, a = .write8 addr v ∧ bufferAt s.params addr = some (b, i) ∧
          t = ((s.withPending rest).writeBuffer b i v).answered .done) ∨
       (∃ w i, a = .write32 0 w ∧ decode w = .ok i ∧ exec i ((s.withPending rest).answered .done) = .next t) ∨
       (∃ w e, a = .write32 0 w ∧ decode w = .error e ∧
          t = ((s.withPending rest).answered .done).faultEntry .illCmd w.toNat 0 0)) := by
  cases hp : s.pending with
  | nil => rw [step_idle s hp] at h; exact .inl ⟨rfl, by simpa using h.symm⟩
  | cons a rest =>
    rw [step_act s a rest hp] at h
    refine .inr ⟨a, rest, rfl, ?_⟩
    cases a with
    | reset => exact .inl ⟨rfl, by simpa [hostAct] using h.symm⟩
    | read32 addr =>
      simp only [hostAct] at h
      split at h
      · next r hr => exact .inr (.inl ⟨addr, r, rfl, hr, by cases h; cases r <;> rfl⟩)
      · cases h
    | read8 addr =>
      simp only [hostAct] at h
      split at h
      · next b i hb => exact .inr (.inr (.inl ⟨addr, b, i, rfl, hb, by cases h; cases b <;> rfl⟩))
      · cases h
    | write8 addr v =>
      simp only [hostAct] at h
      split at h
      · next b i hb => exact .inr (.inr (.inr (.inr (.inl ⟨addr, v, b, i, rfl, hb, by simpa using h.symm⟩))))
      · cases h
    | write32 addr v =>
      simp only [hostAct] at h
      split at h
      · next r hr =>
        by_cases hc : r = .cmd
        · subst hc
          have ha := regAt_eq_cmd addr hr
          subst ha
          rw [writeRegister_cmd, runCommand] at h
          split at h
          · next i hi => exact .inr (.inr (.inr (.inr (.inr (.inl ⟨v, i, rfl, hi, h⟩)))))
          · next e he => exact .inr (.inr (.inr (.inr (.inr (.inr ⟨v, e, rfl, he, by simpa using h.symm⟩)))))
        · rw [writeRegister_of_ne _ _ _ hc] at h
          exact .inr (.inr (.inr (.inl ⟨addr, r, v, rfl, hr, hc, by simpa using h.symm⟩)))
      · cases h

end Sys2Proof.Machine
end

