-- ==== Sys2Proof/Laws/Ends.lean ====
section
/-! SUPPORT. From the ending a meaning computes to the way a claim says a command ends, and the basic facts of the
invariants. -/

namespace Sys2Proof.Safety

open Sys2Proof.Machine

theorem endsOk_of {i : Instr} {s w : State} {res : Word} (h : exec i s = finish s (.ok w [] res)) :
    EndsOk i s w res := h

theorem endsWithFault_of {i : Instr} {s : State} {c : FaultCode} {i0 i1 i2 : Nat}
    (h : exec i s = finish s (.raise c i0 i1 i2)) : EndsWithFault i s c.code i0 i1 i2 := h

theorem endsOkWithOutput_of {i : Instr} {s w : State} {out : Bytes} (h : exec i s = finish s (.ok w out 0)) :
    EndsOkWithOutput i s w out :=
  ⟨w.okCompletion out 0, h, rfl,
    fun k hk => by simpa using Memory.read_writeBytes_inside w.obuf 0 out k hk,
    fun k hk => by simpa using Memory.read_writeBytes_outside w.obuf 0 out k (.inr (by simpa using hk))⟩

end Sys2Proof.Safety
end

