-- ==== Sys2Proof/Laws/Codec.lean ====
section
/-! SUPPORT. The read phase of ST.PARSE (41_codec.md R141) and the relation `ReadSoFar` that claims use say the same;
the field store under a write of one field. -/

namespace Sys2Proof.Safety

open Sys2Proof.Machine

/-- The bytes the first `f` values take. -/
def bytesBefore (values : List Bytes) (f : Nat) : Nat := ((values.take f).map List.length).sum

theorem bytesBefore_succ (values : List Bytes) (f : Nat) (h : f < values.length) :
    bytesBefore values (f + 1) = bytesBefore values f + (values.getD f []).length := by
  unfold bytesBefore
  rw [List.take_succ_eq_append_getElem h, List.getD_eq_getElem _ _ h,
    List.map_append, List.sum_append, List.map_singleton, List.sum_singleton]

theorem bytesBefore_length (values : List Bytes) : bytesBefore values values.length = (values.map List.length).sum := by
  simp [bytesBefore]

theorem wantedBytes_eq_fieldCount (x : FieldDesc) (values : List Bytes) : wantedBytes x values = fieldCount x values := rfl

/-- One field of a read that `ReadSoFar` describes. -/
theorem readFields_step {a : Actor} {d : Descriptor} {input : Bytes} {values : List Bytes}
    (h : ReadSoFar a d input values) {f : Nat} (hf : f < values.length) :
    readFields a (d.drop f) (values.take f) (input.drop (bytesBefore values f)) =
      readFields a (d.drop (f + 1)) (values.take (f + 1)) (input.drop (bytesBefore values (f + 1))) := by
  have hfd : f < d.length := Nat.lt_of_lt_of_le hf h.1
  obtain ⟨hk, hlast, hv⟩ := h.2 f d[f] hf (List.getElem?_eq_getElem hfd)
  change bytesBefore values f + _ ≤ _ at hk
  change _ → _ → _ - bytesBefore values f = _ at hlast
  change _ = conv a _ ((input.drop (bytesBefore values f)).take _) at hv
  have hlen : (values.getD f []).length = fieldCount d[f] (values.take f) := by
    rw [hv, conv_length, List.length_take, List.length_drop]; omega
  rw [List.drop_eq_getElem_cons hfd, readFields]
  simp only [wantedBytes_eq_fieldCount, List.length_drop]
  rw [if_neg (by omega), if_neg]
  · rw [List.take_succ_eq_append_getElem hf, bytesBefore_succ _ _ hf, hlen, List.drop_drop, ← hv,
      List.getD_eq_getElem _ _ hf]
  · intro hc
    simp only [Bool.and_eq_true, isVar_iff, List.isEmpty_iff, List.drop_eq_nil_iff, decide_eq_true_eq] at hc
    exact hc.2 (hlast hc.1.1 (by omega))

/-- A read that has come as far as `values` goes on from there. -/
theorem readFields_of_readSoFar {a : Actor} {d : Descriptor} {input : Bytes} {values : List Bytes}
    (h : ReadSoFar a d input values) :
    readFields a d [] input =
      readFields a (d.drop values.length) values (input.drop ((values.map List.length).sum)) := by
  have key : ∀ f ≤ values.length, readFields a d [] input =
      readFields a (d.drop f) (values.take f) (input.drop (bytesBefore values f)) := by
    intro f
    induction f with
    | zero => intro _; simp [bytesBefore]
    | succ f ih => intro hf; rw [ih (by omega), readFields_step h (by omega)]
  have := key values.length le_rfl
  rwa [bytesBefore_length, List.take_length] at this

/-- What `ReadSoFar` says of the first field it does not have yet, is what one more field needs. -/
theorem readSoFar_snoc {a : Actor} {d : Descriptor} {input : Bytes} {values : List Bytes} {x : FieldDesc}
    (h : ReadSoFar a d input values) (hx : d[values.length]? = some x)
    (hk : (values.map List.length).sum + fieldCount x values ≤ input.length)
    (hlast : (∃ lf, x.kind = .var lf) → values.length + 1 = d.length →
      input.length - (values.map List.length).sum = fieldCount x values) :
    ReadSoFar a d input
      (values ++ [conv a x ((input.drop (values.map List.length).sum).take (fieldCount x values))]) := by
  have hlt : values.length < d.length := (List.getElem?_eq_some_iff.1 hx).1
  refine ⟨by simp; omega, fun f y hf hy => ?_⟩
  simp only [List.length_append, List.length_singleton] at hf
  by_cases he : f = values.length
  · subst he
    have hxy : y = x := by rw [hx] at hy; exact (Option.some.inj hy).symm
    subst hxy
    simp only [List.take_left']
    refine ⟨hk, hlast, ?_⟩
    simp [List.getD_eq_getElem?_getD]
  · have hf' : f < values.length := by omega
    rw [List.take_append_of_le_length (by omega)]
    obtain ⟨h1, h2, h3⟩ := h.2 f y hf' hy
    refine ⟨h1, h2, ?_⟩
    rw [← h3, List.getD_eq_getElem?_getD, List.getElem?_append_left hf', ← List.getD_eq_getElem?_getD]

/-- A read phase that ends without a failure has read every field as `ReadSoFar` says. -/
theorem readSoFar_of_readFields {a : Actor} {d : Descriptor} {input : Bytes} {values rest : List _}
    (h : readFields a d [] input = .ok (values, rest)) :
    ReadSoFar a d input values ∧ values.length = d.length ∧
      rest = input.drop ((values.map List.length).sum) ∧ (values.map List.length).sum ≤ input.length := by
  have key : ∀ (n : Nat) (vs : List Bytes), ReadSoFar a d input vs → n = d.length - vs.length →
      (vs.map List.length).sum ≤ input.length →
      readFields a (d.drop vs.length) vs (input.drop ((vs.map List.length).sum)) = .ok (values, rest) →
      ReadSoFar a d input values ∧ values.length = d.length ∧
        rest = input.drop ((values.map List.length).sum) ∧ (values.map List.length).sum ≤ input.length := by
    intro n
    induction n with
    | zero =>
      intro vs hvs hn hle hr
      have hl : d.length ≤ vs.length := by omega
      rw [List.drop_eq_nil_of_le hl, readFields] at hr
      cases hr
      exact ⟨hvs, Nat.le_antisymm hvs.1 hl, rfl, hle⟩
    | succ n ih =>
      intro vs hvs hn hle hr
      have hl : vs.length < d.length := by omega
      have hx : d[vs.length]? = some d[vs.length] := List.getElem?_eq_getElem hl
      rw [List.drop_eq_getElem_cons hl, readFields] at hr
      simp only [wantedBytes_eq_fieldCount, List.length_drop] at hr
      split at hr
      · cases hr
      · split at hr
        · cases hr
        · next h1 h2 =>
          have hk : (vs.map List.length).sum + fieldCount d[vs.length] vs ≤ input.length := by omega
          have hlast : (∃ lf, (d[vs.length]).kind = .var lf) → vs.length + 1 = d.length →
              input.length - (vs.map List.length).sum = fieldCount d[vs.length] vs := by
            intro hv he
            by_contra hne
            apply h2
            simp only [Bool.and_eq_true, isVar_iff, List.isEmpty_iff, List.drop_eq_nil_iff, decide_eq_true_eq]
            exact ⟨⟨hv, by omega⟩, hne⟩
          have hs := readSoFar_snoc hvs hx hk hlast
          have hlen : (conv a d[vs.length] ((input.drop (vs.map List.length).sum).take
              (fieldCount d[vs.length] vs))).length = fieldCount d[vs.length] vs := by
            rw [conv_length, List.length_take, List.length_drop]; omega
          refine ih _ hs (by simp; omega) (by simp only [List.map_append, List.map_cons, List.map_nil,
            List.sum_append, List.sum_cons, List.sum_nil, hlen]; omega) ?_
          simp only [List.map_append, List.map_cons, List.map_nil, List.sum_append, List.sum_cons, List.sum_nil,
            hlen, List.length_append, List.length_cons, List.length_nil, Nat.add_zero, Nat.zero_add]
          rw [List.drop_drop] at hr
          exact hr
  exact key _ [] ⟨Nat.zero_le _, fun f x hf => absurd hf (Nat.not_lt_zero f)⟩ rfl (Nat.zero_le _) (by simpa using h)

/-- The bytes of the field store after one field has been replaced. -/
theorem total_set (fields : List Bytes) (f : Nat) (v : Bytes) (h : f < fields.length) :
    ((fields.set f v).map List.length).sum + (fields.getD f []).length = (fields.map List.length).sum + v.length := by
  induction fields generalizing f with
  | nil => simp at h
  | cons x fields ih =>
    cases f with
    | zero => simp; omega
    | succ f =>
      have := ih f (by simpa using h)
      simp only [List.set_cons_succ, List.map_cons, List.sum_cons, List.getD_cons_succ] at this ⊢
      omega

/-- One field takes no more bytes than all of them. -/
theorem field_le_total (fields : List Bytes) (f : Nat) : (fields.getD f []).length ≤ (fields.map List.length).sum := by
  induction fields generalizing f with
  | nil => simp
  | cons x fields ih =>
    cases f with
    | zero => simp
    | succ f => have := ih f; simp only [List.getD_cons_succ, List.map_cons, List.sum_cons]; omega

/-! ### The magic phase (R142) -/

/-- The magic phase finds nothing exactly when every allow-list holds its value. -/
theorem badMagic_eq_none (k : Nat) (d : Descriptor) (values : List Bytes) (hl : values.length = d.length) :
    badMagic k d values = none ↔ MagicAllowed d values := by
  induction d generalizing k values with
  | nil => simp [badMagic, MagicAllowed]
  | cons x d ih =>
    cases values with
    | nil => simp at hl
    | cons v vs =>
      have hsplit : MagicAllowed (x :: d) (v :: vs) ↔
          (∀ al, x.magic = some al → intBE v ∈ al) ∧ MagicAllowed d vs := by
        constructor
        · intro h
          exact ⟨fun al he => by simpa using h 0 x al rfl he,
            fun g y al hg hy => by simpa using h (g + 1) y al (by simpa using hg) hy⟩
        · rintro ⟨h1, h2⟩ g y al hg hy
          cases g with
          | zero => simp at hg; subst hg; simpa using h1 al hy
          | succ g => simpa using h2 g y al (by simpa using hg) hy
      rw [hsplit, ← ih (k + 1) vs (by simpa using hl), badMagic]
      cases hm : x.magic with
      | none => simp
      | some al => by_cases hi : intBE v ∈ al <;> simp [hi]

/-- The magic phase reports the first field, in wire order, whose allow-list does not hold its value. -/
theorem badMagic_eq_some (k : Nat) (d : Descriptor) (values : List Bytes) (hl : values.length = d.length) (f : Nat)
    (x : FieldDesc) (al : List Nat) (hx : d[f]? = some x) (hm : x.magic = some al)
    (hn : intBE (values.getD f []) ∉ al) (hb : MagicAllowed (d.take f) (values.take f)) :
    badMagic k d values = some (k + f, intBE (values.getD f [])) := by
  induction d generalizing k f values with
  | nil => simp at hx
  | cons y d ih =>
    cases values with
    | nil => simp at hl
    | cons v vs =>
      cases f with
      | zero => simp at hx; subst hx; simp at hn; simp [badMagic, hm, hn]
      | succ f =>
        have := ih (k + 1) vs (by simpa using hl) f (by simpa using hx) (by simpa using hn)
          (fun g z al hg hz => by simpa using hb (g + 1) z al (by simpa using hg) hz)
        rw [badMagic]
        cases hy : y.magic with
        | none => simp [this]; omega
        | some al' =>
          have hi : intBE v ∈ al' := by simpa using hb 0 y al' (by simp) hy
          simp [this, hi]; omega

end Sys2Proof.Safety
end

