-- ==== Sys2Proof/Laws/PerInstr.lean ====
section
/-! SUPPORT. The family OwnRow: the word of a command satisfies the row of spec/opcode_table.json that carries the
command's mnemonic (30_encoding.md R94). -/

namespace Sys2Proof

/-- The mnemonic of a command (R93). -/
def Instr.mnemonic (i : Instr) : String :=
  match i with
  | .nop => "NOP"
  | .srst => "SRST"
  | .kclr => "KCLR"
  | .curWrap => "CUR.WRAP"
  | .curRd16 _ => "CUR.RD16"
  | .curRd32 _ => "CUR.RD32"
  | .curRdn _ => "CUR.RDN"
  | .curRdx _ => "CUR.RDX"
  | .curSkip _ => "CUR.SKIP"
  | .curSeek _ => "CUR.SEEK"
  | .emapGet _ _ _ => "EMAP.GET"
  | .emapSize _ _ => "EMAP.SIZE"
  | .stNew _ => "ST.NEW"
  | .stSetf _ => "ST.SETF"
  | .stGetf _ => "ST.GETF"
  | .stBuild _ => "ST.BUILD"
  | .stParse _ _ => "ST.PARSE"
  | .hdrBuild => "HDR.BUILD"
  | .hdrBuildt => "HDR.BUILDT"
  | .hdrParse => "HDR.PARSE"
  | .hdrParset => "HDR.PARSET"
  | .hdrValid _ => "HDR.VALID"
  | .kdfDerive _ => "KDF.DERIVE"
  | .kdfPmk => "KDF.PMK"
  | .kdfSek => "KDF.SEK"
  | .kdfSmk => "KDF.SMK"
  | .keyRd _ => "KEY.RD"
  | .gkeyLd _ => "GKEY.LD"
  | .gcmEnc => "GCM.ENC"
  | .gcmDec => "GCM.DEC"

/-- A word of format N satisfies a row whose mask leaves the immediate open. -/
theorem selects_wordN (r : OpcodeRow) (o : BitVec 8) (n : BitVec 16)
    (h : o &&& opcOf r.mask = opcOf r.matchBits ∧ fieldA r.matchBits = 0 ∧ fieldN r.mask = 0 ∧
      fieldN r.matchBits = 0) :
    r.selects (wordN o n) = true := by
  obtain ⟨h1, h2, h3, h4⟩ := h
  rw [← wordOf_fields r.mask, fieldN_wordOf] at h3
  rw [← wordOf_fields r.matchBits, fieldN_wordOf] at h4
  have split : ∀ x y : BitVec 8, x ++ y = (0 : BitVec 16) → x = 0 ∧ y = 0 := fun x y e => by
    have hx : (x ++ y).extractLsb' 8 8 = x := BitVec.extractLsb'_append_eq_left
    have hy : (x ++ y).extractLsb' 0 8 = y := BitVec.extractLsb'_append_eq_right
    exact ⟨by rw [← hx, e]; rfl, by rw [← hy, e]; rfl⟩
  rw [wordN_eq, selects_wordOf, (split _ _ h3).1, (split _ _ h3).2, (split _ _ h4).1, (split _ _ h4).2, h2]
  simp [h1]

end Sys2Proof

namespace Sys2Proof.Laws.OwnRow

/-- The word of `i` satisfies a row that carries its mnemonic. -/
def Statement (i : Instr) : Prop := ∃ r ∈ opcodeTable, r.mnemonic = i.mnemonic ∧ r.selects (encode i) = true

theorem nop : Statement (.nop) :=
  ⟨⟨"NOP", 0x00000000, 0xFFFFFFFF⟩, by decide, rfl, rfl⟩

theorem srst : Statement (.srst) :=
  ⟨⟨"SRST", 0x01000000, 0xFFFFFFFF⟩, by decide, rfl, rfl⟩

theorem kclr : Statement (.kclr) :=
  ⟨⟨"KCLR", 0x02000000, 0xFFFFFFFF⟩, by decide, rfl, rfl⟩

theorem curWrap : Statement (.curWrap) :=
  ⟨⟨"CUR.WRAP", 0x10000000, 0xFFFFFFFF⟩, by decide, rfl, rfl⟩

theorem curRd16 (ord : ReadOrder) : Statement (.curRd16 ord) :=
  ⟨⟨"CUR.RD16", 0x11000000, 0xFFFCFFFF⟩, by decide, rfl, by cases ord <;> rfl⟩

theorem curRd32 (ord : ReadOrder) : Statement (.curRd32 ord) :=
  ⟨⟨"CUR.RD32", 0x12000000, 0xFFFCFFFF⟩, by decide, rfl, by cases ord <;> rfl⟩

theorem curRdn (n : BitVec 16) : Statement (.curRdn n) :=
  ⟨⟨"CUR.RDN", 0x13000000, 0xFFFF0000⟩, by decide, rfl, selects_wordN _ _ _ (by decide)⟩

theorem curRdx (n : BitVec 16) : Statement (.curRdx n) :=
  ⟨⟨"CUR.RDX", 0x14000000, 0xFFFF0000⟩, by decide, rfl, selects_wordN _ _ _ (by decide)⟩

theorem curSkip (n : BitVec 16) : Statement (.curSkip n) :=
  ⟨⟨"CUR.SKIP", 0x15000000, 0xFFFF0000⟩, by decide, rfl, selects_wordN _ _ _ (by decide)⟩

theorem curSeek (pos : BitVec 16) : Statement (.curSeek pos) :=
  ⟨⟨"CUR.SEEK", 0x16000000, 0xFFFF0000⟩, by decide, rfl, selects_wordN _ _ _ (by decide)⟩

theorem emapGet (t f : BitVec 8) (actor : Actor) : Statement (.emapGet t f actor) :=
  ⟨⟨"EMAP.GET", 0x20000000, 0xFF0000FE⟩, by decide, rfl,
    by cases actor <;> exact (selects_wordOf _ _ _ _ _).2 ⟨rfl, by simp [fieldA], by simp [fieldB], rfl⟩⟩

theorem emapSize (t : BitVec 8) (actor : Actor) : Statement (.emapSize t actor) :=
  ⟨⟨"EMAP.SIZE", 0x21000000, 0xFF00FFFE⟩, by decide, rfl,
    by cases actor <;> exact (selects_wordOf _ _ _ _ _).2 ⟨rfl, by simp [fieldA], by simp [fieldB], rfl⟩⟩

theorem stNew (t : BitVec 8) : Statement (.stNew t) :=
  ⟨⟨"ST.NEW", 0x22000000, 0xFF00FFFF⟩, by decide, rfl,
    (selects_wordOf _ _ _ _ _).2 ⟨rfl, by simp [fieldA], by simp [fieldB], rfl⟩⟩

theorem stSetf (f : BitVec 8) : Statement (.stSetf f) :=
  ⟨⟨"ST.SETF", 0x23000000, 0xFFFF00FF⟩, by decide, rfl,
    (selects_wordOf _ _ _ _ _).2 ⟨rfl, by simp [fieldA], by simp [fieldB], rfl⟩⟩

theorem stGetf (f : BitVec 8) : Statement (.stGetf f) :=
  ⟨⟨"ST.GETF", 0x24000000, 0xFFFF00FF⟩, by decide, rfl,
    (selects_wordOf _ _ _ _ _).2 ⟨rfl, by simp [fieldA], by simp [fieldB], rfl⟩⟩

theorem stBuild (actor : Actor) : Statement (.stBuild actor) :=
  ⟨⟨"ST.BUILD", 0x25000000, 0xFFFFFFFE⟩, by decide, rfl, by cases actor <;> rfl⟩

theorem stParse (t : BitVec 8) (actor : Actor) : Statement (.stParse t actor) :=
  ⟨⟨"ST.PARSE", 0x26000000, 0xFF00FFFE⟩, by decide, rfl,
    by cases actor <;> exact (selects_wordOf _ _ _ _ _).2 ⟨rfl, by simp [fieldA], by simp [fieldB], rfl⟩⟩

theorem hdrBuild : Statement (.hdrBuild) :=
  ⟨⟨"HDR.BUILD", 0x30000000, 0xFFFFFFFF⟩, by decide, rfl, rfl⟩

theorem hdrBuildt : Statement (.hdrBuildt) :=
  ⟨⟨"HDR.BUILDT", 0x31000000, 0xFFFFFFFF⟩, by decide, rfl, rfl⟩

theorem hdrParse : Statement (.hdrParse) :=
  ⟨⟨"HDR.PARSE", 0x32000000, 0xFFFFFFFF⟩, by decide, rfl, rfl⟩

theorem hdrParset : Statement (.hdrParset) :=
  ⟨⟨"HDR.PARSET", 0x33000000, 0xFFFFFFFF⟩, by decide, rfl, rfl⟩

theorem hdrValid (order : HdrOrder) : Statement (.hdrValid order) :=
  ⟨⟨"HDR.VALID", 0x34000000, 0xFFFFFFFE⟩, by decide, rfl, by cases order <;> rfl⟩

theorem kdfDerive (n : BitVec 16) : Statement (.kdfDerive n) :=
  ⟨⟨"KDF.DERIVE", 0x40000000, 0xFFFF0000⟩, by decide, rfl, selects_wordN _ _ _ (by decide)⟩

theorem kdfPmk : Statement (.kdfPmk) :=
  ⟨⟨"KDF.PMK", 0x41000000, 0xFFFFFFFF⟩, by decide, rfl, rfl⟩

theorem kdfSek : Statement (.kdfSek) :=
  ⟨⟨"KDF.SEK", 0x42000000, 0xFFFFFFFF⟩, by decide, rfl, rfl⟩

theorem kdfSmk : Statement (.kdfSmk) :=
  ⟨⟨"KDF.SMK", 0x43000000, 0xFFFFFFFF⟩, by decide, rfl, rfl⟩

theorem keyRd (slot : Slot) : Statement (.keyRd slot) :=
  ⟨⟨"KEY.RD", 0x44000000, 0xFFFFFFFC⟩, by decide, rfl, by cases slot <;> rfl⟩

theorem gkeyLd (src : KeySrc) : Statement (.gkeyLd src) :=
  ⟨⟨"GKEY.LD", 0x50000000, 0xFFFFFFFC⟩, by decide, rfl, by cases src <;> rfl⟩

theorem gcmEnc : Statement (.gcmEnc) :=
  ⟨⟨"GCM.ENC", 0x51000000, 0xFFFFFFFF⟩, by decide, rfl, rfl⟩

theorem gcmDec : Statement (.gcmDec) :=
  ⟨⟨"GCM.DEC", 0x52000000, 0xFFFFFFFF⟩, by decide, rfl, rfl⟩

end Sys2Proof.Laws.OwnRow
end

