-- ==== Sys2Proof/Tests/Slice0.lean ====
section
/-! SUPPORT. Our own tests. Expected values are those of 95_test_vectors.md (named in each comment) or worked out by hand
from the rule; the structures are those of 95_test_vectors.md, 3. The last part gives, for every statement with
hypotheses, states and operands that meet them, at the ends of their ranges. -/

namespace Sys2Proof.Tests

open Sys2Proof.Machine Sys2Proof.Safety

/-! ### The test parameters (95_test_vectors.md, 3) -/

/-- Structure 1: fixed fields only. -/
def structOne : Descriptor :=
  [{ name := "hdr", kind := .fixed 4, prim := 4, fw := .convert, magic := none },
   { name := "magic", kind := .fixed 4, prim := 4, fw := .convert, magic := some [0x8A7B9C01, 0x8A7B9C02] },
   { name := "uid", kind := .fixed 8, prim := 8, fw := .none, magic := none },
   { name := "flag", kind := .fixed 1, prim := 1, fw := .absent, magic := none },
   { name := "words", kind := .fixed 12, prim := 4, fw := .convert, magic := none },
   { name := "tag", kind := .fixed 6, prim := 1, fw := .absent, magic := none }]

/-- Structure 2: two variable fields with their length fields. -/
def structTwo : Descriptor :=
  [{ name := "magic", kind := .fixed 4, prim := 4, fw := .convert, magic := some [0x11223344] },
   { name := "dlen", kind := .len 4 2, prim := 4, fw := .convert, magic := none },
   { name := "data", kind := .var 1, prim := 1, fw := .none, magic := none },
   { name := "count", kind := .fixed 2, prim := 2, fw := .convert, magic := none },
   { name := "clen", kind := .len 2 5, prim := 2, fw := .convert, magic := none },
   { name := "chain", kind := .var 4, prim := 1, fw := .absent, magic := none }]

/-- A short structure of our own: a length field and its variable field. -/
def structFive : Descriptor :=
  [{ name := "n", kind := .len 2 1, prim := 2, fw := .convert, magic := none },
   { name := "v", kind := .var 0, prim := 1, fw := .none, magic := none }]

def testRaw (obuf fs : Nat) : RawParams where
  ibufBytes := 4096
  obufBytes := obuf
  fsBytes := fs
  secretMax := 128
  hdr := Config.defaultHdrTable
  unknownCmdCode := 3
  structRom := [(1, structOne), (2, structTwo), (3, []), (5, structFive)]
  kdfHash := .sha384

def testParams : Params := { toRawParams := testRaw 4128 4096, legal := by decide }

/-- The smallest OBUF (R8). -/
def smallOut : Params := { toRawParams := testRaw 64 4096, legal := by decide }

/-- The smallest field store (R8). -/
def smallStore : Params := { toRawParams := testRaw 4128 64, legal := by decide }

def base : State := State.resetWith testParams

/-- The state `s` with the input bytes `bs`. -/
def withInput (s : State) (bs : Bytes) : State :=
  { s with ibuf := Memory.writeBytes [] 0 bs, ilen := BitVec.ofNat 32 bs.length }

/-- The state `s` with its cursor at `pos` over `limit` bytes. -/
def withCursor (s : State) (pos limit : Word) : State := { s with pos := pos, limit := limit }

/-- The state a command ends in. -/
def after (i : Instr) (s : State) : State :=
  match exec i s with
  | .next t => t
  | _ => s

/-- Every command ends. -/
theorem exec_after (i : Instr) (s : State) : exec i s = .next (after i s) := by
  obtain ⟨e, h, -⟩ := exec_cases i s
  simp [after, h, finish]

/-- `STATUS.ERR` and the three information words. -/
def faultOf (s : State) : Nat × Nat × Nat × Nat := (s.err.toNat, s.einfo0.toNat, s.einfo1.toNat, s.einfo2.toNat)

/-- The bytes the port shows in OBUF. -/
def output (s : State) : Bytes := s.obuf.readBytes 0 s.olen.toNat

/-- The state after one step. -/
def stepped (s : State) : State :=
  match step s with
  | .next t => t
  | _ => s

/-! ### Well-formedness: each check refuses a term that breaks it alone -/

/-- R46: the structures of the spec pass. -/
theorem test_wf_spec_structures : Descriptor.wf 4096 structOne = true ∧ Descriptor.wf 4096 structTwo = true ∧
    Descriptor.wf 4096 [] = true := by decide

/-- R45: a primitive width is at least 1. -/
theorem test_wf_prim_zero :
    Descriptor.wf 64 [{ name := "", kind := .fixed 4, prim := 0, fw := .none, magic := none }] = false := by decide

/-- R46 (a): a FIXED field has at least one byte, and its primitive width divides its size. -/
theorem test_wf_fixed :
    Descriptor.wf 64 [{ name := "", kind := .fixed 0, prim := 1, fw := .none, magic := none }] = false ∧
    Descriptor.wf 64 [{ name := "", kind := .fixed 6, prim := 4, fw := .none, magic := none }] = false := by decide

/-- R45, R46 (d): an allow-list is non-empty, on one integer of at most 4 bytes, with values that fit. -/
theorem test_wf_magic :
    Descriptor.wf 64 [{ name := "", kind := .fixed 4, prim := 4, fw := .none, magic := some [] }] = false ∧
    Descriptor.wf 64 [{ name := "", kind := .fixed 8, prim := 8, fw := .none, magic := some [1] }] = false ∧
    Descriptor.wf 64 [{ name := "", kind := .fixed 4, prim := 2, fw := .none, magic := some [1] }] = false ∧
    Descriptor.wf 64 [{ name := "", kind := .fixed 1, prim := 1, fw := .none, magic := some [256] }] = false := by decide

/-- R46 (b): a LEN field is 2 or 4 bytes, one primitive, without an allow-list, and its target is a later VAR field. -/
theorem test_wf_len :
    Descriptor.wf 64 [{ name := "", kind := .len 3 1, prim := 3, fw := .none, magic := none },
      { name := "", kind := .var 0, prim := 1, fw := .none, magic := none }] = false ∧
    Descriptor.wf 64 [{ name := "", kind := .len 4 1, prim := 2, fw := .none, magic := none },
      { name := "", kind := .var 0, prim := 1, fw := .none, magic := none }] = false ∧
    Descriptor.wf 64 [{ name := "", kind := .len 2 1, prim := 2, fw := .none, magic := some [1] },
      { name := "", kind := .var 0, prim := 1, fw := .none, magic := none }] = false ∧
    Descriptor.wf 64 [{ name := "", kind := .len 2 1, prim := 2, fw := .none, magic := none },
      { name := "", kind := .fixed 1, prim := 1, fw := .none, magic := none }] = false ∧
    Descriptor.wf 64 [{ name := "", kind := .len 2 0, prim := 2, fw := .none, magic := none }] = false := by decide

/-- R46 (c): a VAR field has primitive width 1, no CONVERT entry, no allow-list, and its length field is an earlier LEN
field that names it. -/
theorem test_wf_var :
    Descriptor.wf 64 [{ name := "", kind := .len 2 1, prim := 2, fw := .none, magic := none },
      { name := "", kind := .var 0, prim := 2, fw := .none, magic := none }] = false ∧
    Descriptor.wf 64 [{ name := "", kind := .len 2 1, prim := 2, fw := .none, magic := none },
      { name := "", kind := .var 0, prim := 1, fw := .convert, magic := none }] = false ∧
    Descriptor.wf 64 [{ name := "", kind := .len 2 1, prim := 2, fw := .none, magic := none },
      { name := "", kind := .var 0, prim := 1, fw := .none, magic := some [1] }] = false ∧
    Descriptor.wf 64 [{ name := "", kind := .var 0, prim := 1, fw := .none, magic := none }] = false ∧
    Descriptor.wf 64 [{ name := "", kind := .fixed 2, prim := 2, fw := .none, magic := none },
      { name := "", kind := .var 0, prim := 1, fw := .none, magic := none }] = false := by decide

/-- R46 (e): the certain bytes fit the field store. -/
theorem test_wf_store :
    Descriptor.wf 64 [{ name := "", kind := .fixed 65, prim := 1, fw := .none, magic := none }] = false ∧
    Descriptor.wf 64 [{ name := "", kind := .fixed 64, prim := 1, fw := .none, magic := none }] = true := by decide

/-- R45: at most 256 fields. -/
theorem test_wf_length :
    Descriptor.wf 4096 (List.replicate 257 { name := "", kind := .fixed 1, prim := 1, fw := .none, magic := none }) =
      false := by decide +kernel

/-- R8, R151: header fields lie in 32 bits, have at least one bit, and share none. -/
theorem test_wf_header :
    HdrTable.wf Config.defaultHdrTable = true ∧
    HdrTable.wf { Config.defaultHdrTable with id := { offset := 24, width := 0 } } = false ∧
    HdrTable.wf { Config.defaultHdrTable with client := { offset := 29, width := 4 } } = false ∧
    HdrTable.wf { Config.defaultHdrTable with length := { offset := 7, width := 11 } } = false := by decide

/-- R8: the bounds of the sizes, and of the reserved status code. -/
theorem test_wf_params :
    (testRaw 4128 4096).wf = true ∧ (testRaw 63 4096).wf = false ∧ (testRaw 65536 4096).wf = false ∧
    (testRaw 4128 63).wf = false ∧ { testRaw 4128 4096 with ibufBytes := 63 }.wf = false ∧
    { testRaw 4128 4096 with secretMax := 47 }.wf = false ∧ { testRaw 4128 4096 with secretMax := 256 }.wf = false ∧
    { testRaw 4128 4096 with unknownCmdCode := 0 }.wf = false ∧
    { testRaw 4128 4096 with unknownCmdCode := 256 }.wf = false := by decide

/-- R95: unknown opcodes, bits that must be zero, reserved selectors (95_test_vectors.md, illegal words). -/
theorem test_wf_words :
    ([0x00000001, 0x01000100, 0x03000000, 0x53000000, 0xFFFFFFFF, 0x10000001, 0x11030000, 0x12040000, 0x13010000,
      0x21010100, 0x22010001, 0x23010000, 0x25000100, 0x26010002, 0x34000002, 0x44000000, 0x44000004, 0x50000002,
      0x50000100] : List Word).all (fun w => !legalWord w) = true := by decide

/-! ### Decoding: words written out from the formats of 30_encoding.md -/

theorem test_decode_system :
    decode 0x00000000 = .ok .nop ∧ decode 0x01000000 = .ok .srst ∧ decode 0x02000000 = .ok .kclr := by decide

theorem test_decode_cursor :
    decode 0x10000000 = .ok .curWrap ∧ decode 0x11000000 = .ok (.curRd16 .persistent) ∧
    decode 0x11010000 = .ok (.curRd16 .big) ∧ decode 0x12020000 = .ok (.curRd32 .little) ∧
    decode 0x13001234 = .ok (.curRdn 0x1234) ∧ decode 0x14000015 = .ok (.curRdx 21) ∧
    decode 0x1500FFFF = .ok (.curSkip 0xFFFF) ∧ decode 0x16000004 = .ok (.curSeek 4) := by decide

theorem test_decode_codec :
    decode 0x20FE0701 = .ok (.emapGet 0xFE 7 .service) ∧ decode 0x21020000 = .ok (.emapSize 2 .firmware) ∧
    decode 0x22010000 = .ok (.stNew 1) ∧ decode 0x23000500 = .ok (.stSetf 5) ∧ decode 0x24000300 = .ok (.stGetf 3) ∧
    decode 0x25000001 = .ok (.stBuild .service) ∧ decode 0x26020000 = .ok (.stParse 2 .firmware) := by decide

theorem test_decode_header :
    decode 0x30000000 = .ok .hdrBuild ∧ decode 0x31000000 = .ok .hdrBuildt ∧ decode 0x32000000 = .ok .hdrParse ∧
    decode 0x33000000 = .ok .hdrParset ∧ decode 0x34000000 = .ok (.hdrValid .raw) ∧
    decode 0x34000001 = .ok (.hdrValid .xport) := by decide

theorem test_decode_kdf :
    decode 0x40000030 = .ok (.kdfDerive 48) ∧ decode 0x41000000 = .ok .kdfPmk ∧ decode 0x42000000 = .ok .kdfSek ∧
    decode 0x43000000 = .ok .kdfSmk ∧ decode 0x44000001 = .ok (.keyRd .pmk) ∧ decode 0x44000002 = .ok (.keyRd .sek) ∧
    decode 0x44000003 = .ok (.keyRd .smk) := by decide

theorem test_decode_cipher :
    decode 0x50000000 = .ok (.gkeyLd .ibuf) ∧ decode 0x50000001 = .ok (.gkeyLd .sek) ∧ decode 0x51000000 = .ok .gcmEnc ∧
    decode 0x52000000 = .ok .gcmDec := by decide

theorem test_decode_rejects :
    decode 0x27000000 = .error .unknownOpcode ∧ decode 0x13010000 = .error .mustBeZero ∧
    decode 0x12030000 = .error .reservedSelector ∧ decode 0x50000003 = .error .reservedSelector ∧
    decodeTableWord 32 0x44000000 = none ∧ decodeTableWord 32 0x44000002 = some (.keyRd .sek) := by decide

/-! ### The port -/

/-- R24: a command written to `CMD` runs; `withFetchWord` writes one. -/
theorem test_fetch_word : (stepped (base.withFetchWord 32 0x03000000)).einfo0 = 0x03000000 ∧
    (stepped (base.withFetchWord 32 0x10000000)).err = 0 := by decide

/-- R28: a write to `CFG` stores a reserved `PROV` as 0 and a reserved `ORD` as 0 (95_test_vectors.md, P4). -/
theorem test_cfg_write :
    (stepped { base with pending := [.write32 0x18 0xFFFFFFFF] }).cfg = 0x100 ∧
    (stepped { base with pending := [.write32 0x18 0x105] }).cfg = 0x105 := by decide

/-- R30, R34: a length above the maximum is ignored, the maximum is not. -/
theorem test_length_write :
    (stepped { base with pending := [.write32 0x20 4097] }).ilen = 0 ∧
    (stepped { base with pending := [.write32 0x20 4096] }).ilen = 4096 ∧
    (stepped { base with slen := 5, pending := [.write32 0x34 129] }).slen = 5 := by decide

/-- R65: the edges of the map. -/
theorem test_bus_error :
    hostAct (.read32 0x4E) base = .refused .busError ∧ hostAct (.read32 0x50) base = .refused .busError ∧
    hostAct (.read8 0x4C) base = .refused .busError ∧ hostAct (.read32 0x10000) base = .refused .busError ∧
    hostAct (.read8 0x11000) base = .refused .busError ∧ hostAct (.write8 0x3011B 1) base = .refused .busError :=
  ⟨rfl, rfl, rfl, rfl, rfl, rfl⟩

/-! ### One step of each command -/

/-- R206: NOP completes; ESTICKY stays (95_test_vectors.md, SY). -/
theorem test_nop : faultOf (after .nop { base with status := 13, einfo0 := 7, esticky := 0x2000 }) = (0, 0, 0, 0) ∧
    (after .nop { base with status := 13, einfo0 := 7, esticky := 0x2000 }).esticky = 0x2000 := by decide

/-- R207: SRST (SY). -/
theorem test_srst : after .srst (withCursor (withInput { base with hcode := 7, esticky := 2 } [1, 2]) 1 2) = base := by
  decide +kernel

/-- R208: KCLR leaves `LLEN` and clears `SLEN` and `KSTAT` (SY). -/
theorem test_kclr : (after .kclr { base with slen := 48, llen := 2, kstat := 10, sek := 5 }).kstat = 0 ∧
    (after .kclr { base with slen := 48, llen := 2, kstat := 10, sek := 5 }).slen = 0 ∧
    (after .kclr { base with slen := 48, llen := 2, kstat := 10, sek := 5 }).sek = 0 ∧
    (after .kclr { base with slen := 48, llen := 2, kstat := 10, sek := 5 }).llen = 2 := by decide

/-- R107 (CU). -/
theorem test_curWrap : (after .curWrap (withCursor (withInput base [1, 2, 3]) 2 9)).limit = 3 ∧
    (after .curWrap (withCursor (withInput base [1, 2, 3]) 2 9)).pos = 0 := by decide

/-- R108 (CU): both orders over 12 34; one byte remaining is an underrun. -/
theorem test_curRd16 : (after (.curRd16 .big) (withCursor (withInput base [0x12, 0x34]) 0 2)).res = 0x1234 ∧
    (after (.curRd16 .persistent) (withCursor (withInput { base with cfg := 0x100 } [0x12, 0x34]) 0 2)).res = 0x3412 ∧
    faultOf (after (.curRd16 .big) (withCursor (withInput base [0x12, 0x34]) 1 2)) = (1, 1, 2, 0) := by decide

/-- R109 (CU). -/
theorem test_curRd32 : (after (.curRd32 .little) (withCursor (withInput base [0x12, 0x34, 0x56, 0x78]) 0 4)).res =
      0x78563412 ∧
    (after (.curRd32 .little) (withCursor (withInput base [0x12, 0x34, 0x56, 0x78]) 0 4)).pos = 4 := by decide

/-- R110 (CU). -/
theorem test_curRdn : output (after (.curRdn 2) (withCursor (withInput base [7, 8, 9, 10]) 1 4)) = [8, 9] ∧
    (after (.curRdn 2) (withCursor (withInput base [7, 8, 9, 10]) 1 4)).pos = 3 := by decide

/-- R111 (CU): the exact length, one less, one more. -/
theorem test_curRdx : output (after (.curRdx 3) (withCursor (withInput base [7, 8, 9, 10]) 1 4)) = [8, 9, 10] ∧
    faultOf (after (.curRdx 2) (withCursor (withInput base [7, 8, 9, 10]) 1 4)) = (2, 3, 2, 0) ∧
    faultOf (after (.curRdx 4) (withCursor (withInput base [7, 8, 9, 10]) 1 4)) = (1, 3, 4, 0) := by decide

/-- R112 (CU): to `LIMIT` and one beyond. -/
theorem test_curSkip : (after (.curSkip 3) (withCursor base 18 21)).pos = 21 ∧
    faultOf (after (.curSkip 1) (withCursor base 21 21)) = (3, 0x16, 0x15, 0) := by decide

/-- R113 (CU). -/
theorem test_curSeek : (after (.curSeek 21) (withCursor base 0 21)).pos = 21 ∧
    faultOf (after (.curSeek 22) (withCursor base 4 21)) = (3, 0x16, 0x15, 0) := by decide

/-- R122 (EM). -/
theorem test_emapGet : (after (.emapGet 1 0 .firmware) base).res = 1 ∧ (after (.emapGet 1 2 .firmware) base).res = 0 ∧
    (after (.emapGet 1 0 .service) base).res = 0 ∧ faultOf (after (.emapGet 1 6 .firmware) base) = (14, 3, 6, 0) := by
  decide

/-- R123 (EM). -/
theorem test_emapSize : (after (.emapSize 1 .firmware) base).res = 4 ∧ (after (.emapSize 2 .firmware) base).res = 5 ∧
    (after (.emapSize 2 .service) base).res = 0 ∧ faultOf (after (.emapSize 4 .service) base) = (14, 1, 4, 0) := by decide

/-- R127 (ST). -/
theorem test_stNew : (after (.stNew 2) base).ssel = 0x102 ∧
    (after (.stNew 2) base).fs = [zeros 4, zeros 4, [], zeros 2, zeros 2, []] := by decide

/-- Structure 2 filled in as in 95_test_vectors.md, ST. -/
def filled : State :=
  { base with
    ssel := 0x102
    fs := [[0x11, 0x22, 0x33, 0x44], [0, 0, 0, 3], [0xAA, 0xBB, 0xCC], [0, 5], [0, 2], [0xDE, 0xAD]] }

/-- R128 (ST): a variable field sets its length field; a length field cannot be set. -/
theorem test_stSetf : (after (.stSetf 2) (withInput { base with ssel := 0x102, fs := freshFields structTwo } [9, 8, 7])).fs =
      [zeros 4, [0, 0, 0, 3], [9, 8, 7], zeros 2, zeros 2, []] ∧
    faultOf (after (.stSetf 1) (withInput filled [0, 0, 0, 3])) = (14, 4, 1, 0) ∧
    faultOf (after (.stSetf 3) (withInput filled [1, 2, 3])) = (4, 3, 2, 3) := by decide

/-- R129 (ST). -/
theorem test_stGetf : output (after (.stGetf 2) filled) = [0xAA, 0xBB, 0xCC] ∧
    faultOf (after (.stGetf 6) filled) = (14, 3, 6, 0) := by decide

/-- R130 (ST): both actors. -/
theorem test_stBuild :
    output (after (.stBuild .service) filled) =
      [0x11, 0x22, 0x33, 0x44, 0, 0, 0, 3, 0xAA, 0xBB, 0xCC, 0, 5, 0, 2, 0xDE, 0xAD] ∧
    output (after (.stBuild .firmware) filled) =
      [0x44, 0x33, 0x22, 0x11, 3, 0, 0, 0, 0xAA, 0xBB, 0xCC, 5, 0, 2, 0, 0xDE, 0xAD] := by decide

/-- R139 (ST): the firmware's bytes parse to the same fields; one byte more is too many for the last field. -/
theorem test_stParse :
    (after (.stParse 2 .firmware) (withInput base
      [0x44, 0x33, 0x22, 0x11, 3, 0, 0, 0, 0xAA, 0xBB, 0xCC, 5, 0, 2, 0, 0xDE, 0xAD])).fs = filled.fs ∧
    faultOf (after (.stParse 2 .service) (withInput base
      [0x11, 0x22, 0x33, 0x44, 0, 0, 0, 3, 0xAA, 0xBB, 0xCC, 0, 5, 0, 2, 0xDE, 0xAD, 0xEE])) = (5, 3, 2, 0x502) := by
  decide

/-- R142, R143 (ST): a magic value that is not allowed, and bytes left over. -/
theorem test_stParse_struct :
    faultOf (after (.stParse 2 .service) (withInput base [0x11, 0x22, 0x33, 0x45, 0, 0, 0, 0, 0, 5, 0, 0])) =
      (6, 0, 0x11223345, 1) ∧
    faultOf (after (.stParse 3 .firmware) (withInput base [0])) = (6, 0, 1, 2) := by decide

/-- The header registers of 95_test_vectors.md, HD 2. -/
def headed : State := { base with hcode := 10, hlen := 180, hclient := 1, hid := 1 }

/-- R152 (HD): and a value that does not fit spills. -/
theorem test_hdrBuild : output (after .hdrBuild headed) = [0x11, 0x0B, 0x40, 0x0A] ∧
    output (after .hdrBuild { base with hcode := 0x100 }) = [0, 0, 1, 0] := by decide

/-- R154 (HD). -/
theorem test_hdrBuildt : output (after .hdrBuildt headed) = [0x0A, 0x40, 0x0B, 0x11] := by decide

/-- R156 (HD): the bits between the fields are ignored; the length is 4. -/
theorem test_hdrParse : (after .hdrParse (withInput base [0x11, 0x0B, 0x40, 0x0A])).hlen = 180 ∧
    (after .hdrParse (withInput base [0, 0x80, 0x0F, 0])).hlen = 0 ∧
    faultOf (after .hdrParse (withInput base [0x11, 0x0B, 0x40])) = (7, 3, 0, 0) := by decide

/-- R158 (HD). -/
theorem test_hdrParset : (after .hdrParset (withInput base [0x0A, 0x40, 0x0B, 0x11])).hcode = 10 ∧
    (after .hdrParset (withInput base [0x11, 0x0B, 0x40, 0x0A])).hlen = 1024 := by decide

/-- R159 (HD). -/
theorem test_hdrValid : faultOf (after (.hdrValid .raw) (withInput base [0x11, 0x0B, 0x40, 0])) = (0, 0, 0, 0) ∧
    faultOf (after (.hdrValid .raw) (withInput base [0x11, 0x0B, 0x40, 3])) = (8, 3, 0, 0) ∧
    faultOf (after (.hdrValid .xport) (withInput base [10, 0x40, 0x0B, 0x11])) = (9, 10, 0, 0) := by decide

/-- The secret 00 01 ... 2F of 95_test_vectors.md, KD. -/
def keyed : State := { base with secret := Memory.writeBytes [] 0 ((List.range 48).map (BitVec.ofNat 8)), slen := 48 }

/-- R170 (KD 8): the label "TEST", 16 bytes. -/
theorem test_kdfDerive :
    intBE (output (after (.kdfDerive 16)
      { keyed with lbuf := Memory.writeBytes [] 0 [0x54, 0x45, 0x53, 0x54], llen := 4 })) =
        0x23BB07961D54E5B90EB0913F22485014 ∧
    faultOf (after (.kdfDerive 49) keyed) = (14, 5, 49, 0) := by decide +kernel

/-- R173 (KD 3). -/
theorem test_kdfPmk : (after .kdfPmk keyed).kstat = 1 ∧ (after .kdfPmk keyed).pmk =
    0xA5762A10A1B247DF639D63933193C59461B09D6A341C30629580E1C2A7D27FC9938AD5CB38E846F3F00CAB33890C9875 := by
  decide +kernel

/-- R174 (KD 4, 6). -/
theorem test_kdfSek : (after .kdfSek { keyed with kstat := 1 }).kstat = 3 ∧ (after .kdfSek keyed).sek =
      0x588F045692D6AC39174852563FBBC9BB6F761885BC8F33870F3F77C7E69D0F0C ∧
    faultOf (after .kdfSek { keyed with kstat := 2 }) = (15, 1, 2, 0) := by decide +kernel

/-- R175 (KD 5). -/
theorem test_kdfSmk : (after .kdfSmk keyed).smk =
    0x704A7ADDFD70BEB3980F4F9698A0E53BE79E14EBBD6CC8E3A9DCEEB0A3BF47D9 ∧
    faultOf (after .kdfSmk base) = (15, 3, 0, 0) := by decide +kernel

/-- R177. -/
theorem test_keyRd : output (after (.keyRd .sek) { base with sek := 0x0102, kstat := 2 }) = zeros 30 ++ [1, 2] ∧
    faultOf (after (.keyRd .sek) base) = (15, 2, 2, 0) := by decide

/-- R186 (GC 2, 3, 5). -/
theorem test_gkeyLd : (after (.gkeyLd .ibuf) (withInput base (zeros 31 ++ [5]))).gkey = 5 ∧
    (after (.gkeyLd .ibuf) (withInput base (zeros 31 ++ [5]))).kstat = 8 ∧
    faultOf (after (.gkeyLd .ibuf) (withInput base (zeros 31))) = (14, 6, 31, 0) ∧
    faultOf (after (.gkeyLd .sek) base) = (15, 2, 2, 0) := by decide

/-- A cipher under the zero key, big-endian, whose next draw is zero. -/
def ciphered : State := { base with kstat := 8, cfg := 5, rngTape := [0] }

/-- R190 (GC 9a): sixteen zero bytes. -/
theorem test_gcmEnc : output (after .gcmEnc (withInput ciphered (zeros 16))) = beBytes 48
    0x0000000C000000000000000000000000CEA7403D4D606B6E074EC5D3BAF39D18D0D1C8A799996BF0265B98B5D48AB919 ∧
    faultOf (after .gcmEnc base) = (12, 1, 0, 0) := by decide +kernel

/-- R194 (GC 9b, 9c): the same frame back; under the other byte order it fails. -/
theorem test_gcmDec :
    output (after .gcmDec (withInput ciphered (beBytes 48
      0x0000000C000000000000000000000000CEA7403D4D606B6E074EC5D3BAF39D18D0D1C8A799996BF0265B98B5D48AB919))) = zeros 16 ∧
    faultOf (after .gcmDec (withInput { ciphered with cfg := 9 } (beBytes 48
      0x0000000C000000000000000000000000CEA7403D4D606B6E074EC5D3BAF39D18D0D1C8A799996BF0265B98B5D48AB919))) =
      (11, 0, 0, 0) := by decide +kernel

/-! ### The primitives (48_crypto_primitives.md R221, R229, R235) -/

theorem test_sbox : sbox 0x00 = 0x63 ∧ sbox 0x01 = 0x7C ∧ sbox 0x53 = 0xED ∧ sbox 0xFF = 0x16 := by decide

theorem test_aes :
    aesEncrypt 0x000102030405060708090A0B0C0D0E0F101112131415161718191A1B1C1D1E1F 0x00112233445566778899AABBCCDDEEFF =
      0x8EA2B7CA516745BFEAFC49904B496089 := by decide +kernel

theorem test_gfmul : gfmul (aesEncrypt 0 0) (aesEncrypt 0 0) = 0xC7C27E834F1E393C2A82D138CE9261B7 := by decide +kernel

theorem test_sha384 : intBE (sha384 [0x61, 0x62, 0x63]) =
    0xcb00753f45a35e8bb5a03d699ac65007272c32ab0eded1631a8b605a43ff5bed8086072ba1e7cc2358baeca134c825a7 := by
  decide +kernel

theorem test_hmac : intBE (hmacSha384 (List.replicate 20 0x0B) [0x48, 0x69, 0x20, 0x54, 0x68, 0x65, 0x72, 0x65]) =
    0xafd03944d84895626b0825f4ab46907f15f9dadbe4101ec682aa034c7cebc59cfaea9ea9076ede7f4af152e8b2fa9cb6 := by
  decide +kernel

/-! ### Witnesses: states and operands that meet the hypotheses of each statement, clause by clause -/

theorem witness_EncodeOfDecodeIsTheWord : decode 0x44000003 = .ok (.keyRd .smk) := by decide

theorem witness_OpcodeRowsAreDisjoint :
    let r : OpcodeRow := ⟨"CUR.SEEK", 0x16000000, 0xFFFF0000⟩
    r ∈ opcodeTable ∧ r.selects 0x1600FFFF = true := by decide

/-- The host's next action is a write of `w` to `CMD`. -/
def commanding (w : Word) : State := { base with pending := [.write32 0x00000#20 w] }

theorem witness_StepRunsTheDecodedCommand :
    (commanding 0x41000000).pending = .write32 0x00000#20 0x41000000 :: [] ∧ decode 0x41000000 = .ok .kdfPmk := by decide

theorem witness_IllegalWordFaults :
    (commanding 0xFFFFFFFF).pending = .write32 0x00000#20 0xFFFFFFFF :: [] ∧ legalWord 0xFFFFFFFF = false ∧
    legalWord 0x44000000 = false ∧ legalWord 0x13010000 = false := by decide

/-- The last byte of each window; in OBUF also the last byte below `OLEN` and the first at it. -/
theorem witness_BufferReadsAnswerTheByte :
    let s := { base with olen := 4127 }
    4095 < s.params.ibufBytes ∧ (4126 < s.params.obufBytes ∧ 4126 < s.olen.toNat) ∧
    (4127 < s.params.obufBytes ∧ s.olen.toNat ≤ 4127) ∧ 127 < s.params.secretMax ∧ 26 < 27 := by decide

theorem witness_BufferWritesStoreTheByte :
    4095 < base.params.ibufBytes ∧ 4127 < base.params.obufBytes ∧ 127 < base.params.secretMax ∧ 26 < 27 := by decide

theorem witness_IllegalTransactionsAreRefused :
    { base with pending := [.read32 0x50] }.pending = .read32 0x50 :: [] ∧
    IllegalTransaction testParams (.read32 0x50) ∧ ¬IllegalTransaction testParams (.read32 0x4C) ∧
    IllegalTransaction testParams (.read32 0x02) ∧ IllegalTransaction testParams (.write32 0x10000 0) ∧
    IllegalTransaction testParams (.read8 0x11000) ∧ ¬IllegalTransaction testParams (.read8 0x10FFF) ∧
    IllegalTransaction testParams (.write8 0x3011B 0) ∧ ¬IllegalTransaction testParams (.write8 0x3011A 0) := by
  refine ⟨rfl, ?_, ?_, ?_, ?_, ?_, ?_, ?_, ?_⟩ <;> simp only [IllegalTransaction, InBufferWindow] <;> decide

/-- A state in use: an open builder, a cursor inside its input, a derived key, a configured cipher, a sticky fault, and
a CUR.RD16 to come. -/
def inUse : State :=
  { filled with
    ibuf := [(0, 1), (3, 9)], ilen := 4, limit := 4, pos := 2, kstat := 10, sek := 7, gkey := 7, cfg := 0x105
    esticky := 0x2000, pending := [.write32 0x00000#20 0x11010000] }

theorem inUse_open : inUse.desc inUse.builderId = some structTwo := by decide

theorem inUse_invariants : Invariants inUse := by
  constructor <;> decide

theorem witness_StepKeepsInvariant : Invariants inUse ∧ step inUse = .next (stepped inUse) := ⟨inUse_invariants, rfl⟩

theorem witness_ResetInputResetsTheBlock :
    { inUse with pending := [.reset] }.pending = .reset :: [] := rfl

theorem witness_StepKeepsParameters : step inUse = .next (stepped inUse) := rfl

theorem witness_FaultsArePrecise :
    exec (.stSetf 0) base = .next (after (.stSetf 0) base) ∧ (after (.stSetf 0) base).err ≠ 0 := ⟨rfl, by decide⟩

theorem witness_OkCompletionClearsInformation :
    exec (.stGetf 5) inUse = .next (after (.stGetf 5) inUse) ∧ (after (.stGetf 5) inUse).err = 0 ∧
    (Instr.stGetf 5) ≠ .srst := ⟨rfl, by decide, by decide⟩

theorem witness_CommandsLeaveHostInputs :
    exec .curWrap inUse = .next (after .curWrap inUse) ∧ Instr.curWrap ≠ .srst := ⟨rfl, by decide⟩

/-- One command meets the premises of all three clauses. -/
theorem witness_StateHasItsOwnWriters :
    exec .nop inUse = .next (after .nop inUse) ∧ Instr.nop ≠ .srst ∧
    (Instr.nop ≠ .curWrap ∧ (∀ o, Instr.nop ≠ .curRd16 o) ∧ (∀ o, Instr.nop ≠ .curRd32 o) ∧
      (∀ n, Instr.nop ≠ .curRdn n) ∧ (∀ n, Instr.nop ≠ .curRdx n) ∧ (∀ n, Instr.nop ≠ .curSkip n) ∧
      (∀ n, Instr.nop ≠ .curSeek n)) ∧
    ((∀ x, Instr.nop ≠ .stNew x) ∧ (∀ f, Instr.nop ≠ .stSetf f) ∧ (∀ x a, Instr.nop ≠ .stParse x a)) ∧
    (Instr.nop ≠ .hdrParse ∧ Instr.nop ≠ .hdrParset) := by
  refine ⟨rfl, ?_⟩
  simp

/-- A named derivation over its own valid slot, and beside it two other slots. -/
theorem witness_KeySlotsAreWriteOnce :
    let s := { base with kstat := 1, pmk := 9 }
    exec .kdfPmk s = .next (after .kdfPmk s) ∧ Instr.kdfPmk ≠ .srst ∧ Instr.kdfPmk ≠ .kclr ∧
    s.slotValid .pmk = true ∧ Instr.kdfPmk ≠ .kdfSek ∧ Instr.kdfPmk ≠ .kdfSmk := ⟨rfl, by decide⟩

theorem witness_StickyBitsStay :
    step inUse = .next (stepped inUse) ∧ inUse.esticky.getLsbD 13 = true ∧
    ∀ a, inUse.pending.head? = some a →
      a ≠ .reset ∧ ¬commands a .srst ∧ ∀ v, a = .write32 0x00014#20 v → v.getLsbD 13 = false := by
  refine ⟨rfl, by decide, fun a h => ?_⟩
  cases (Option.some.inj h : HostAction.write32 0x00000#20 0x11010000 = a)
  exact ⟨by decide, by unfold commands; decide, fun v h => by cases h⟩

theorem witness_CipherKeyIsNeverShown :
    step inUse = .next (stepped inUse) ∧
    ∀ a, inUse.pending.head? = some a → ¬commands a .gcmEnc ∧ ¬commands a .gcmDec := by
  refine ⟨rfl, fun a h => ?_⟩
  cases (Option.some.inj h : HostAction.write32 0x00000#20 0x11010000 = a)
  exact ⟨by unfold commands; decide, by unfold commands; decide⟩

/-- One byte short, and just enough, for each way the order is chosen. -/
theorem witness_CurRd16ReadsTwoBytes :
    let short := withCursor base 1 2
    let enough := withCursor base 0 2
    let little := { enough with cfg := 0x100 }
    short.limit.toNat - short.pos.toNat < 2 ∧ 2 ≤ enough.limit.toNat - enough.pos.toNat ∧
    enough.cfg.getLsbD 8 = false ∧ 2 ≤ little.limit.toNat - little.pos.toNat ∧ little.cfg.getLsbD 8 = true := by decide

theorem witness_CurRd32ReadsFourBytes :
    let short := withCursor base 1 4
    let enough := withCursor base 0 4
    let little := { enough with cfg := 0x100 }
    short.limit.toNat - short.pos.toNat < 4 ∧ 4 ≤ enough.limit.toNat - enough.pos.toNat ∧
    enough.cfg.getLsbD 8 = false ∧ 4 ≤ little.limit.toNat - little.pos.toNat ∧ little.cfg.getLsbD 8 = true := by decide

/-- The smallest OBUF, so that the capacity can be exceeded. -/
def small : State := State.resetWith smallOut

theorem witness_CurRdnCopiesBytes :
    let s := withCursor small 0 65
    s.limit.toNat - s.pos.toNat < (66 : BitVec 16).toNat ∧
    ((65 : BitVec 16).toNat ≤ s.limit.toNat - s.pos.toNat ∧ s.params.obufBytes < (65 : BitVec 16).toNat) ∧
    ((64 : BitVec 16).toNat ≤ s.limit.toNat - s.pos.toNat ∧ (64 : BitVec 16).toNat ≤ s.params.obufBytes) := by decide

theorem witness_CurRdxReadsExactly :
    let s := withCursor small 0 65
    let t := withCursor small 1 65
    s.limit.toNat - s.pos.toNat < (66 : BitVec 16).toNat ∧ (64 : BitVec 16).toNat < s.limit.toNat - s.pos.toNat ∧
    ((65 : BitVec 16).toNat = s.limit.toNat - s.pos.toNat ∧ s.params.obufBytes < (65 : BitVec 16).toNat) ∧
    ((64 : BitVec 16).toNat = t.limit.toNat - t.pos.toNat ∧ (64 : BitVec 16).toNat ≤ t.params.obufBytes) := by decide

theorem witness_CurSkipAndSeekMove :
    let s := withCursor base 1 4
    s.limit.toNat < s.pos.toNat + (4 : BitVec 16).toNat ∧ s.pos.toNat + (3 : BitVec 16).toNat ≤ s.limit.toNat ∧
    s.limit.toNat < (5 : BitVec 16).toNat ∧ (4 : BitVec 16).toNat ≤ s.limit.toNat := by decide

theorem witness_EmapGetAnswersTheDecision :
    base.params.structRom.lookup 4 = none ∧ base.params.structRom.lookup 1 = some structOne ∧
    structOne.length ≤ (6 : BitVec 8).toNat ∧
    (structOne[(0 : BitVec 8).toNat]?).map FieldDesc.fw = some .convert ∧
    (structOne[(5 : BitVec 8).toNat]?).map FieldDesc.fw = some .absent := by decide

theorem witness_EmapSizeCountsTheEntries :
    base.params.structRom.lookup 4 = none ∧ base.params.structRom.lookup 3 = some [] := by decide

theorem witness_ConversionUndoesItself :
    base.params.structRom.lookup 5 = some structFive ∧
    (∀ x ∈ structFive[0]?, ∀ size, x.kind = .fixed size → ([1, 2] : Bytes).length = size) ∧
    (∀ x ∈ structFive[0]?, ∀ size g, x.kind = .len size g → ([1, 2] : Bytes).length = size) ∧
    (∀ x ∈ structFive[1]?, ∃ lf, x.kind = .var lf) := by
  refine ⟨by decide, ?_, ?_, ?_⟩ <;> simp [structFive]

theorem witness_StNewOpensAZeroBuilder :
    base.params.structRom.lookup 0 = none ∧ base.params.structRom.lookup 2 = some structTwo ∧
    (structTwo[5]?).isSome = true := by decide

/-- The builder of structure 2 in the smallest field store, with 53 and with 52 input bytes. -/
def tight (n : Word) : State :=
  { State.resetWith smallStore with ssel := 0x102, fs := freshFields structTwo, ilen := n }

theorem witness_StSetfWritesOneField :
    base.ssel.getLsbD 8 = false ∧ (tight 53).ssel.getLsbD 8 = true ∧
    (tight 53).params.structRom.lookup ((tight 53).ssel.extractLsb' 0 8) = some structTwo ∧
    structTwo.length ≤ (6 : BitVec 8).toNat ∧
    (structTwo[3]?).map FieldDesc.kind = some (.fixed 2) ∧ (tight 53).ilen.toNat ≠ 2 ∧ (tight 2).ilen.toNat = 2 ∧
    (structTwo[1]?).map FieldDesc.kind = some (.len 4 2) ∧ (structTwo[2]?).map FieldDesc.kind = some (.var 1) ∧
    (tight 53).params.fsBytes < ((tight 53).fs.map List.length).sum - ((tight 53).fs.getD 2 []).length +
      (tight 53).ilen.toNat ∧
    ((tight 52).fs.map List.length).sum - ((tight 52).fs.getD 2 []).length + (tight 52).ilen.toNat ≤
      (tight 52).params.fsBytes := by decide

/-- A variable field one byte longer than the smallest OBUF, and one that just fits. -/
def long (n : Nat) : State := { small with ssel := 0x105, fs := [beBytes 2 n, zeros n] }

theorem witness_StGetfReadsOneField :
    base.ssel.getLsbD 8 = false ∧ (long 65).ssel.getLsbD 8 = true ∧
    (long 65).params.structRom.lookup ((long 65).ssel.extractLsb' 0 8) = some structFive ∧
    structFive.length ≤ (2 : BitVec 8).toNat ∧ (1 : BitVec 8).toNat < structFive.length ∧
    (long 65).fs[(1 : BitVec 8).toNat]? = some (zeros 65) ∧ (long 65).params.obufBytes < (zeros 65).length ∧
    (long 64).fs[(1 : BitVec 8).toNat]? = some (zeros 64) ∧ (zeros 64).length ≤ (long 64).params.obufBytes := by decide

theorem witness_StBuildConcatenatesTheWireValues :
    base.ssel.getLsbD 8 = false ∧ (long 63).ssel.getLsbD 8 = true ∧
    (long 63).params.structRom.lookup ((long 63).ssel.extractLsb' 0 8) = some structFive ∧
    (long 63).fs.length = structFive.length ∧
    (long 63).params.obufBytes < (buildBytes .service structFive (long 63).fs).length ∧
    (buildBytes .service structFive (long 62).fs).length ≤ (long 62).params.obufBytes := by decide

/-- The read of structure 5 from 00 01 AA BB: its length field has been read, and one byte too many is left. -/
theorem oneTooMany : ReadSoFar .service structFive (withInput base [0, 1, 0xAA, 0xBB]).input [[0, 1]] :=
  readSoFar_snoc (d := structFive) (values := []) (x := { name := "n", kind := .len 2 1, prim := 2, fw := .convert, magic := none })
    ⟨Nat.zero_le _, fun _ _ h => absurd h (Nat.not_lt_zero _)⟩ rfl (by decide) (by simp)

theorem witness_StParseFaultsAtTheFirstUnreadableField :
    base.params.structRom.lookup 4 = none ∧ base.params.structRom.lookup 5 = some structFive ∧
    (ReadSoFar .service structFive (withInput base [0]).input [] ∧
      (withInput base [0]).ilen.toNat - (([] : List Bytes).map List.length).sum < 2) ∧
    (ReadSoFar .service structFive (withInput base [0, 1, 0xAA, 0xBB]).input [[0, 1]] ∧
      intBE [0, 1] < (withInput base [0, 1, 0xAA, 0xBB]).ilen.toNat - (([[0, 1]] : List Bytes).map List.length).sum ∧
      ([[0, 1]] : List Bytes).length + 1 = structFive.length) :=
  ⟨by decide, by decide, ⟨⟨Nat.zero_le _, fun _ _ h => absurd h (Nat.not_lt_zero _)⟩, by decide⟩, oneTooMany,
    by decide, by decide⟩

/-- The values ST.PARSE reads, and that it has read them. -/
theorem readAll (s : State) (a : Actor) (d : Descriptor) (values : List Bytes)
    (h : (readFields a d [] s.input).toOption.map Prod.fst = some values) :
    ReadSoFar a d s.input values ∧ values.length = d.length := by
  cases e : readFields a d [] s.input with
  | error x => rw [e] at h; cases h
  | ok r =>
    rw [e] at h
    obtain ⟨v, rest⟩ := r
    cases (Option.some.inj h : v = values)
    exact ⟨(readSoFar_of_readFields e).1, (readSoFar_of_readFields e).2.1⟩

/-- A magic value that is not allowed as the first of the two fields that could fail. -/
def wrongMagic : State := withInput base ([0, 0, 0, 1, 0x8A, 0x7B, 0x9C, 3] ++ zeros 27)

/-- The clauses of the phases after the read: a wrong magic value; one byte left over (structure 3 has no field); a
field store that is one byte too small; and one that is just large enough. -/
theorem witness_StParseAfterTheReadPhase :
    (base.params.structRom.lookup 1 = some structOne ∧
      (readFields .service structOne [] wrongMagic.input).toOption.map Prod.fst = some
        [[0, 0, 0, 1], [0x8A, 0x7B, 0x9C, 3], zeros 8, zeros 1, zeros 12, zeros 6] ∧
      (structOne[1]?).map FieldDesc.magic = some (some [0x8A7B9C01, 0x8A7B9C02]) ∧
      intBE [0x8A, 0x7B, 0x9C, 3] ∉ [0x8A7B9C01, 0x8A7B9C02] ∧ badMagic 0 (structOne.take 1) [[0, 0, 0, 1]] = none) ∧
    (base.params.structRom.lookup 3 = some [] ∧
      (readFields .service [] [] (withInput base [0]).input).toOption.map Prod.fst = some [] ∧
      0 < (withInput base [0]).ilen.toNat) ∧
    (let s := withInput (State.resetWith smallStore) ([0, 63] ++ zeros 63)
     (readFields .service structFive [] s.input).toOption.map Prod.fst = some [[0, 63], zeros 63] ∧
     badMagic 0 structFive [[0, 63], zeros 63] = none ∧ 2 + 63 = s.ilen.toNat ∧ s.params.fsBytes < s.ilen.toNat) ∧
    (let s := withInput (State.resetWith smallStore) ([0, 62] ++ zeros 62)
     (readFields .service structFive [] s.input).toOption.map Prod.fst = some [[0, 62], zeros 62] ∧
     badMagic 0 structFive [[0, 62], zeros 62] = none ∧ 2 + 62 = s.ilen.toNat ∧ s.ilen.toNat ≤ s.params.fsBytes) := by
  decide +kernel

/-- The same two premises in the statement's own words, for the last of those clauses. -/
theorem witness_StParseAfterTheReadPhase_reads :
    let s := withInput (State.resetWith smallStore) ([0, 62] ++ zeros 62)
    ReadSoFar .service structFive s.input [[0, 62], zeros 62] ∧ MagicAllowed structFive [[0, 62], zeros 62] :=
  ⟨(readAll _ _ _ _ (by decide +kernel)).1, (badMagic_eq_none 0 structFive [[0, 62], zeros 62] rfl).1 (by decide)⟩

/-- What the builder of `inUse` gives, as the input of another state. -/
def rebuilt : State :=
  { base with ibuf := (after (.stBuild .firmware) inUse).obuf, ilen := (after (.stBuild .firmware) inUse).olen }

theorem witness_ParseUndoesBuild :
    Invariants inUse ∧ inUse.builderOpen = true ∧ inUse.desc inUse.builderId = some structTwo ∧
    MagicAllowed structTwo inUse.fs ∧
    exec (.stBuild .firmware) inUse = .next (after (.stBuild .firmware) inUse) ∧
    (after (.stBuild .firmware) inUse).err = 0 ∧ rebuilt.params = inUse.params ∧
    rebuilt.input =
      (after (.stBuild .firmware) inUse).obuf.readBytes 0 (after (.stBuild .firmware) inUse).olen.toNat :=
  ⟨inUse_invariants, by decide, inUse_open, (badMagic_eq_none 0 structTwo inUse.fs rfl).1 (by decide), exec_after _ _, by decide,
    rfl, rfl⟩

theorem witness_HdrParseExtractsTheFields :
    (withInput base (zeros 3)).ilen ≠ 4 ∧ (withInput base (zeros 5)).ilen ≠ 4 ∧ (withInput base (zeros 4)).ilen = 4 := by
  decide

theorem witness_HdrValidTestsTheStatus :
    let status := fun b : Byte => (withInput base [0, 0, 0, b]).ibuf.read 3
    (withInput base (zeros 3)).ilen ≠ 4 ∧ (withInput base (zeros 4)).ilen = 4 ∧
    (status 3).toNat = base.params.unknownCmdCode.toNat ∧
    ((status 255).toNat ≠ base.params.unknownCmdCode.toNat ∧ (status 255).toNat ≠ 0) ∧ (status 0).toNat = 0 := by decide

/-- Header registers at the largest value of each field, and the bytes they give as the input of another state. -/
def fullHeader : State := { base with hcode := 255, hlen := 2047, hclient := 15, hid := 15 }

theorem witness_HeaderParseUndoesBuild :
    let s := fullHeader
    let s' := after .hdrBuild s
    let u := { base with ibuf := s'.obuf, ilen := 4 }
    s.hcode.toNat < 2 ^ s.params.hdr.code.width ∧ s.hlen.toNat < 2 ^ s.params.hdr.length.width ∧
    s.hclient.toNat < 2 ^ s.params.hdr.client.width ∧ s.hid.toNat < 2 ^ s.params.hdr.id.width ∧
    u.params = s.params ∧ u.ilen = 4 ∧ (∀ k : Nat, k < 4 → u.ibuf.read k = s'.obuf.read k) ∧
    exec .hdrBuild s = .next s' ∧ exec .hdrBuildt s = .next (after .hdrBuildt s) :=
  ⟨by decide, by decide, by decide, by decide, rfl, rfl, fun _ _ => rfl, exec_after _ _, exec_after _ _⟩

theorem witness_KdfDeriveOutputsTheDerivation :
    48 < (49 : BitVec 16).toNat ∧ ((48 : BitVec 16).toNat ≤ 48 ∧ base.slen = 0) ∧
    ((48 : BitVec 16).toNat ≤ 48 ∧ keyed.slen ≠ 0) := by decide

theorem witness_NamedDerivationsWriteTheirSlot :
    let valid := { base with kstat := 7 }
    (valid.kstat.getLsbD 0 = true ∧ valid.kstat.getLsbD 1 = true ∧ valid.kstat.getLsbD 2 = true) ∧
    (base.kstat.getLsbD 0 = false ∧ base.kstat.getLsbD 1 = false ∧ base.kstat.getLsbD 2 = false ∧ base.slen = 0) ∧
    (keyed.kstat.getLsbD 0 = false ∧ keyed.kstat.getLsbD 1 = false ∧ keyed.kstat.getLsbD 2 = false ∧
      keyed.slen ≠ 0) := by decide

theorem witness_KeyRdOutputsTheSlot :
    let valid := { base with kstat := 7 }
    (base.kstat.getLsbD 0 = false ∧ base.kstat.getLsbD 1 = false ∧ base.kstat.getLsbD 2 = false) ∧
    (valid.kstat.getLsbD 0 = true ∧ valid.kstat.getLsbD 1 = true ∧ valid.kstat.getLsbD 2 = true) := by decide

theorem witness_GkeyLdLoadsTheKey :
    { base with ilen := 31 }.ilen ≠ 32 ∧ { base with ilen := 32 }.ilen = 32 ∧ base.kstat.getLsbD 1 = false ∧
    { base with kstat := 2 }.kstat.getLsbD 1 = true := by decide

theorem witness_UnconfiguredCipherFaults :
    let k := { base with kstat := 8 }
    let p := { k with cfg := 1 }
    base.kstat.getLsbD 3 = false ∧ (k.kstat.getLsbD 3 = true ∧ k.cfg.extractLsb' 0 2 = 0#2) ∧
    (p.kstat.getLsbD 3 = true ∧ p.cfg.extractLsb' 0 2 ≠ 0#2 ∧ p.cfg.extractLsb' 2 2 = 0#2) := by decide

/-- A configured cipher over the smallest OBUF, with `n` input bytes. -/
def sealing (n : Word) : State := { small with kstat := 8, cfg := 5, ilen := n }

theorem witness_GcmEncOutputsTheFrame :
    ((sealing 33).kstat.getLsbD 3 = true ∧ (sealing 33).cfg.extractLsb' 0 2 ≠ 0#2 ∧
      (sealing 33).cfg.extractLsb' 2 2 ≠ 0#2) ∧
    (sealing 33).params.obufBytes < (sealing 33).ilen.toNat + 32 ∧
    (sealing 32).ilen.toNat + 32 ≤ (sealing 32).params.obufBytes := by decide

/-- A frame of `n` zero bytes under a big-endian configuration, its length field holding `v`. -/
def framed (n : Nat) (v : Byte) : State :=
  { small with kstat := 8, cfg := 5, ilen := BitVec.ofNat 32 n, ibuf := Memory.writeBytes [] 0 [0, 0, 0, v] }

/-- 31 bytes; a declared length other than 12; a plaintext one byte too long for OBUF; a wrong tag on the longest
plaintext that fits; and the frame of sixteen zero bytes under the zero key, whose tag is right. -/
theorem witness_GcmDecOutputsThePlaintext :
    let good := withInput ciphered (beBytes 48
      0x0000000C000000000000000000000000CEA7403D4D606B6E074EC5D3BAF39D18D0D1C8A799996BF0265B98B5D48AB919)
    ((framed 31 12).kstat.getLsbD 3 = true ∧ (framed 31 12).cfg.extractLsb' 0 2 ≠ 0#2 ∧
      (framed 31 12).cfg.extractLsb' 2 2 = 1#2) ∧
    (framed 31 12).ilen.toNat < 32 ∧ ((framed 32 11).ibuf.read 3).toNat ≠ 12 ∧
    (32 ≤ (framed 97 12).ilen.toNat ∧ ((framed 97 12).ibuf.read 3).toNat = 12 ∧
      (framed 97 12).params.obufBytes < (framed 97 12).ilen.toNat - 32) ∧
    (32 ≤ (framed 96 12).ilen.toNat ∧ ((framed 96 12).ibuf.read 3).toNat = 12 ∧
      (framed 96 12).ilen.toNat - 32 ≤ (framed 96 12).params.obufBytes ∧
      gcmTag 0 0 (zeros 64) ≠ (framed 96 12).ibuf.readBytes 80 16) ∧
    (32 ≤ good.ilen.toNat ∧ (good.ibuf.read 3).toNat = 12 ∧ good.ilen.toNat - 32 ≤ good.params.obufBytes ∧
      gcmTag good.gkey 0 (good.ibuf.readBytes 16 16) = good.ibuf.readBytes 32 16) := by decide +kernel

/-- The frame GCM.ENC produced, as the input of another state with the same key and configuration. -/
def received : State :=
  let t := after .gcmEnc (withInput ciphered [1, 2, 3])
  { base with kstat := 8, cfg := 5, ibuf := t.obuf, ilen := t.olen }

theorem witness_DecryptUndoesEncrypt :
    let s := withInput ciphered [1, 2, 3]
    let s' := after .gcmEnc s
    exec .gcmEnc s = .next s' ∧ s'.err = 0 ∧ received.params = s.params ∧ received.gkey = s.gkey ∧
    received.cfg = s.cfg ∧ received.gkeyValid = true ∧ received.input = s'.obuf.readBytes 0 s'.olen.toNat :=
  ⟨exec_after _ _, by decide +kernel, rfl, rfl, rfl, by decide, by simp only [State.input, received]⟩

theorem witness_DecryptionFailuresLookAlike :
    exec .gcmDec (framed 31 12) = .next (after .gcmDec (framed 31 12)) ∧
    (after .gcmDec (framed 31 12)).err = 11 := ⟨exec_after _ _, by decide +kernel⟩

end Sys2Proof.Tests
end

/-! ### No step changes the parameters (00_scope.md R19; 70_reset_and_hazards.md R281) -/

namespace Sys2Proof.Machine

@[simp] theorem State.writeReg_params (s : State) (r : Reg) (v : Word) : (s.writeReg r v).params = s.params := by
  cases r <;> rfl

@[simp] theorem State.writeBuffer_params (s : State) (b : Buffer) (i : Nat) (v : Byte) :
    (s.writeBuffer b i v).params = s.params := by
  cases b <;> rfl

/-- No command's own writes touch the parameters, SRST's reset of the block included (R281). -/
theorem Writes.params_eq {i : Instr} {s t : State} (h : Writes i s t) : t.params = s.params := by
  cases i with
  | nop | emapGet | emapSize | stGetf | stBuild | hdrBuild | hdrBuildt | hdrValid | kdfDerive | keyRd | gcmDec
  | srst | kclr | curWrap | hdrParse | hdrParset | gcmEnc =>
    obtain rfl : t = _ := h
    rfl
  | curRd16 | curRd32 | curRdn | curRdx | curSkip | curSeek =>
    obtain ⟨-, rfl⟩ := h
    simp
  | stNew =>
    obtain ⟨d, -, rfl⟩ := h
    simp
  | stSetf =>
    obtain ⟨-, x, -, ⟨-, rfl⟩ | ⟨lf, -, -, rfl⟩⟩ := h
    · rfl
    · rfl
  | stParse =>
    obtain ⟨d, values, -, -, -, -, rfl⟩ := h
    simp
  | kdfPmk | kdfSek | kdfSmk =>
    obtain ⟨-, v, rfl⟩ := h
    simp
  | gkeyLd =>
    obtain ⟨k, rfl⟩ := h
    simp

/-- A command, faulting or ending OK, leaves the parameters. -/
theorem exec_params {i : Instr} {s t : State} (h : exec i s = .next t) : t.params = s.params := by
  obtain ⟨c, i0, i1, i2, -, rfl⟩ | ⟨w, out, res, hw, -, rfl⟩ := exec_next_cases h
  · simp
  · simpa using hw.params_eq

/-- Settles O17: each way a step can go is an update that leaves the parameters, or runs a command. -/
theorem stepKeepsParameters : Obligations.StepKeepsParameters := by
  intro s t h
  obtain ⟨-, rfl⟩ | ⟨a, rest, -, hreset | hread32 | hread8 | hwrite32 | hwrite8 | hcommand | hillegal⟩ := step_cases h
  · rfl
  · obtain ⟨-, rfl⟩ := hreset
    simp
  · obtain ⟨addr, r, -, -, rfl⟩ := hread32
    simp
  · obtain ⟨addr, b, i, -, -, rfl⟩ := hread8
    simp
  · obtain ⟨addr, r, v, -, -, -, rfl⟩ := hwrite32
    simp
  · obtain ⟨addr, v, b, i, -, -, rfl⟩ := hwrite8
    simp
  · obtain ⟨w, i, -, -, hexec⟩ := hcommand
    simpa using exec_params hexec
  · obtain ⟨w, e, -, -, rfl⟩ := hillegal
    simp

end Sys2Proof.Machine

/-! ### The conversion is its own inverse (41_codec.md R126; 00_scope.md R12) -/

namespace Sys2Proof

/-- The values a field can hold are inside the domain of `revprim` (R12): the primitive width is at least 1 and divides
their length. R46 (a) to (c) give this for each kind of field. -/
theorem FieldDesc.prim_divides_length {d : Descriptor} {f : Nat} {x : FieldDesc} {v : Bytes} (h : x.wf d f = true)
    (hfixed : ∀ size, x.kind = .fixed size → v.length = size)
    (hlen : ∀ size target, x.kind = .len size target → v.length = size) :
    1 ≤ x.prim ∧ v.length % x.prim = 0 := by
  cases hk : x.kind with
  | fixed size =>
    obtain ⟨hpos, -, hmod⟩ := FieldDesc.wf_fixed h hk
    rw [hfixed size hk]
    exact ⟨hpos, hmod⟩
  | len size target =>
    obtain ⟨hsize, hprim, -⟩ := FieldDesc.wf_len h hk
    rw [hlen size target hk, hprim]
    exact ⟨by omega, Nat.mod_self size⟩
  | var lf =>
    obtain ⟨hprim, -⟩ := FieldDesc.wf_var h hk
    rw [hprim]
    exact ⟨le_rfl, Nat.mod_one _⟩

end Sys2Proof

namespace Sys2Proof.Machine

@[simp] theorem conv_service (x : FieldDesc) (v : Bytes) : conv .service x v = v := rfl

theorem conv_firmware_of_convert {x : FieldDesc} (h : x.fw = .convert) (v : Bytes) :
    conv .firmware x v = revPrim x.prim v := by simp [conv, converts, h]

/-- Only a field whose FIRMWARE entry is CONVERT is changed, whoever the actor is (R121, R126). -/
theorem conv_of_fw_ne_convert {x : FieldDesc} (h : x.fw ≠ .convert) (a : Actor) (v : Bytes) : conv a x v = v := by
  cases a with
  | service => rfl
  | firmware => simp [conv, converts, h]

/-- Converting twice gives the value back, inside the domain of `revprim` (R12). -/
theorem conv_conv (a : Actor) {x : FieldDesc} {v : Bytes} (hpos : 1 ≤ x.prim) (hdvd : v.length % x.prim = 0) :
    conv a x (conv a x v) = v := by
  by_cases hfw : x.fw = .convert
  · cases a with
    | service => rfl
    | firmware => rw [conv_firmware_of_convert hfw, conv_firmware_of_convert hfw, revPrim_revPrim x.prim v hpos hdvd]
  · rw [conv_of_fw_ne_convert hfw, conv_of_fw_ne_convert hfw]

/-- Settles O37: the legality of the table (R46) puts every value a field can hold inside the domain of `revprim`, where
it is its own inverse, and forbids CONVERT on a variable field. -/
theorem conversionUndoesItself : Obligations.ConversionUndoesItself := by
  intro s t d f x a v hd hx hfixed hlen
  have hwf : x.wf d f = true := Descriptor.field_wf (s.params.desc_wf t d hd) hx
  obtain ⟨hpos, hdvd⟩ := FieldDesc.prim_divides_length hwf hfixed hlen
  refine ⟨conv_conv a hpos hdvd, conv_length a x v, conv_service x v, ?_⟩
  rintro ⟨lf, hk⟩
  obtain ⟨-, hfw, -⟩ := FieldDesc.wf_var hwf hk
  exact conv_of_fw_ne_convert hfw a v

end Sys2Proof.Machine

/-! ### Bits that an update sets or leaves (10_state.md R27 to R29, R36) -/

namespace Sys2Proof.Machine

/-- Bits that are 0 under a mask stay 0 when the bit that is set lies outside it. -/
theorem setBit_and_eq_zero {w m : Word} {k : Nat} (hw : w &&& m = 0) (hk : (1#32 <<< k) &&& m = 0) :
    setBit w k &&& m = 0 := by
  rw [setBit, BitVec.and_or_distrib_right]
  exact BitVec.or_eq_zero_iff.2 ⟨hw, hk⟩

theorem slotBit_lt (k : Slot) : slotBit k < 3 := by cases k <;> decide

theorem slotBit_inj {j k : Slot} : slotBit j = slotBit k ↔ j = k := by cases j <;> cases k <;> decide

/-- A derivation makes its own slot valid and leaves the valid bits of the others (R173). -/
@[simp] theorem slotValid_setSlot (s : State) (j k : Slot) (v : Bytes) :
    (s.setSlot k v).slotValid j = (s.slotValid j || decide (j = k)) := by
  have hk := slotBit_lt k
  simp only [State.slotValid, State.setSlot_kstat, setBit_getLsbD _ _ _ (show slotBit k < 32 by omega), slotBit_inj]

@[simp] theorem gkeyValid_setSlot (s : State) (k : Slot) (v : Bytes) : (s.setSlot k v).gkeyValid = s.gkeyValid := by
  have hk := slotBit_lt k
  simp only [State.gkeyValid, State.setSlot_kstat, setBit_getLsbD _ _ _ (show slotBit k < 32 by omega),
    show 3 ≠ slotBit k by omega, decide_false, Bool.or_false]

/-- Loading the cipher key leaves the valid bits of the slots (R186). -/
@[simp] theorem slotValid_setGkey (s : State) (j : Slot) (k : BitVec 256) :
    (s.setGkey k).slotValid j = s.slotValid j := by
  have hj := slotBit_lt j
  simp [State.slotValid, setBit_getLsbD _ 3 _ (by decide), show slotBit j ≠ 3 by omega]

@[simp] theorem gkeyValid_setGkey (s : State) (k : BitVec 256) : (s.setGkey k).gkeyValid = true := by
  simp [State.gkeyValid, setBit_getLsbD _ 3 3 (by decide)]

/-! What `CFG` holds after a host write (R28), from the three fields it is put together from. -/

theorem cfg_fields (c : BitVec 1) (o p : BitVec 2) :
    let w : Word := 0#23 ++ c ++ 0#4 ++ o ++ p
    w.extractLsb' 0 2 = p ∧ w.extractLsb' 2 2 = o ∧ w.getLsbD 8 = c.getLsbD 0 ∧ w &&& 0xFFFFFEF0#32 = 0 := by
  revert c o p
  decide

theorem cfgStored_prov (w : Word) :
    (cfgStored w).extractLsb' 0 2 = if w.extractLsb' 0 2 = 1#2 then 1#2 else 0#2 :=
  (cfg_fields _ _ _).1

theorem cfgStored_ord (w : Word) :
    (cfgStored w).extractLsb' 2 2 = if w.extractLsb' 2 2 = 3#2 then 0#2 else w.extractLsb' 2 2 :=
  (cfg_fields _ _ _).2.1

theorem cfgStored_curle (w : Word) : (cfgStored w).getLsbD 8 = w.getLsbD 8 :=
  (cfg_fields (w.extractLsb' 8 1) _ _).2.2.1.trans (by simp)

theorem cfgStored_reserved (w : Word) : cfgStored w &&& 0xFFFFFEF0#32 = 0 := (cfg_fields _ _ _).2.2.2

/-- `SSEL` with a builder open (R36): `OPEN` is set, the reserved bits are 0, and `T` is the id. -/
theorem sselOpen_open (t : BitVec 8) : (sselOpen t).getLsbD 8 = true := by
  rw [sselOpen, BitVec.getLsbD_append, BitVec.getLsbD_append]
  rfl

theorem sselOpen_id (t : BitVec 8) : (sselOpen t).extractLsb' 0 8 = t := BitVec.extractLsb'_append_eq_right

theorem sselOpen_reserved (t : BitVec 8) : sselOpen t &&& 0xFFFFFE00#32 = 0 := by
  have hmask : (0xFFFFFE00#32 : Word) = 0x7FFFFF#23 ++ 0#1 ++ 0#8 := by decide
  rw [sselOpen, hmask, BitVec.and_append, BitVec.and_append, BitVec.and_zero, BitVec.and_zero]
  rfl

@[simp] theorem builderOpen_openBuilder (s : State) (t : BitVec 8) (fields : List Bytes) :
    (s.openBuilder t fields).builderOpen = true := sselOpen_open t

@[simp] theorem builderId_openBuilder (s : State) (t : BitVec 8) (fields : List Bytes) :
    (s.openBuilder t fields).builderId = t := sselOpen_id t

end Sys2Proof.Machine

/-! ### The windows of the address map (20_memory.md R61, R64) -/

namespace Sys2Proof.Machine

theorem inWindow_eq_some {a base size i : Nat} : inWindow a base size = some i ↔ a = base + i ∧ i < size := by
  unfold inWindow
  split
  · simp only [Option.some.injEq]; omega
  · simp only [reduceCtorEq, false_iff]; omega

theorem inWindow_eq_none {a base size : Nat} : inWindow a base size = none ↔ a < base ∨ base + size ≤ a := by
  unfold inWindow
  split
  · simp only [reduceCtorEq, false_iff]; omega
  · simp only [true_iff]; omega

/-- How many bytes a buffer's window shows (R61). -/
def windowSize (p : Params) (b : Buffer) : Nat :=
  match b with
  | .ibuf => p.ibufBytes
  | .obuf => p.obufBytes
  | .secret => p.secretMax
  | .lbuf => 27

/-- Where a buffer's window begins (R61). -/
def windowBase (b : Buffer) : Nat :=
  match b with
  | .ibuf => 0x10000
  | .obuf => 0x20000
  | .secret => 0x30000
  | .lbuf => 0x30100

/-- The address of a buffer's byte is the base of its window plus the offset, below the window's size (R61). -/
theorem bufferAt_eq_some {p : Params} {addr : BitVec 20} {b : Buffer} {i : Nat} :
    bufferAt p addr = some (b, i) ↔ addr.toNat = windowBase b + i ∧ i < windowSize p b := by
  obtain ⟨⟨-, hibuf⟩, ⟨-, hobuf⟩, -, -, hsecret⟩ := p.bounds
  simp only [bufferAt]
  constructor
  · intro h
    split at h <;> cases h
    · exact inWindow_eq_some.1 ‹_›
    · exact inWindow_eq_some.1 ‹_›
    · exact inWindow_eq_some.1 ‹_›
    · exact inWindow_eq_some.1 ‹_›
  · rintro ⟨ha, hi⟩
    have outside : ∀ base size, addr.toNat < base ∨ base + size ≤ addr.toNat → inWindow addr.toNat base size = none :=
      fun _ _ => inWindow_eq_none.2
    have inside := inWindow_eq_some.2 ⟨ha, hi⟩
    cases b with
    | ibuf =>
      simp only [windowBase, windowSize] at inside
      rw [inside]
    | obuf =>
      simp only [windowBase, windowSize] at ha inside
      rw [inside, outside 0x10000 _ (by omega)]
    | secret =>
      simp only [windowBase, windowSize] at ha inside
      rw [inside, outside 0x10000 _ (by omega), outside 0x20000 _ (by omega)]
    | lbuf =>
      simp only [windowBase, windowSize] at ha inside
      rw [inside, outside 0x10000 _ (by omega), outside 0x20000 _ (by omega), outside 0x30000 _ (by omega)]

/-- An offset that the map gives lies inside its buffer. -/
theorem bufferAt_lt {p : Params} {addr : BitVec 20} {b : Buffer} {i : Nat} (h : bufferAt p addr = some (b, i)) :
    i < windowSize p b := (bufferAt_eq_some.1 h).2

end Sys2Proof.Machine

/-! ### The field store of an open builder (10_state.md R44, R50; 41_codec.md R127, R128, R139) -/

namespace Sys2Proof.Safety

open Sys2Proof.Machine

theorem getD_set_same {fields : List Bytes} {f : Nat} (hf : f < fields.length) (v : Bytes) :
    (fields.set f v).getD f [] = v := by
  simp [List.getD_eq_getElem?_getD, hf]

theorem getD_set_ne (fields : List Bytes) {f g : Nat} (h : f ≠ g) (v : Bytes) :
    (fields.set f v).getD g [] = fields.getD g [] := by
  simp [List.getD_eq_getElem?_getD, h]

/-- R50 on the fields of a builder, kind by kind. -/
theorem fieldsFit_iff (d : Descriptor) (fields : List Bytes) :
    FieldsFit d fields ↔ fields.length = d.length ∧ ∀ f x, d[f]? = some x →
      (∀ size, x.kind = .fixed size → (fields.getD f []).length = size) ∧
      ∀ size target, x.kind = .len size target →
        fields.getD f [] = beBytes size (fields.getD target []).length := by
  have one : ∀ (x : FieldDesc) (f : Nat), fieldFits fields x f = true ↔
      (∀ size, x.kind = .fixed size → (fields.getD f []).length = size) ∧
      ∀ size target, x.kind = .len size target →
        fields.getD f [] = beBytes size (fields.getD target []).length := by
    intro x f
    unfold fieldFits
    cases x.kind <;> simp
  refine and_congr_right fun _ => ?_
  simp only [Prod.forall, List.mem_zipIdx_iff_getElem?, one]
  exact forall_comm

/-- A VAR field and its LEN field name each other, so no other LEN field has that target (R46 (b), (c)). -/
theorem len_target_unique {n : Nat} {d : Descriptor} (hwf : Descriptor.wf n d = true) {f lf g size : Nat}
    {x y : FieldDesc} (hx : d[f]? = some x) (hxk : x.kind = .var lf) (hy : d[g]? = some y)
    (hyk : y.kind = .len size f) : g = lf := by
  obtain ⟨-, -, -, z, hz, hzk⟩ := FieldDesc.wf_len (Descriptor.field_wf hwf hy) hyk
  obtain rfl : x = z := Option.some.inj (hx.symm.trans hz)
  rw [hxk] at hzk
  exact (FieldKind.var.inj hzk).symm

/-- A target of a LEN field is a VAR field (R46 (b)). -/
theorem target_is_var {n : Nat} {d : Descriptor} (hwf : Descriptor.wf n d = true) {f g size target : Nat}
    {x y : FieldDesc} (hx : d[f]? = some x) (hy : d[g]? = some y) (hyk : y.kind = .len size target)
    (hne : ∀ lf, x.kind ≠ .var lf) : f ≠ target := by
  obtain ⟨-, -, -, z, hz, hzk⟩ := FieldDesc.wf_len (Descriptor.field_wf hwf hy) hyk
  rintro rfl
  obtain rfl : x = z := Option.some.inj (hx.symm.trans hz)
  exact hne _ hzk

theorem freshFields_getD {d : Descriptor} {f : Nat} {x : FieldDesc} (h : d[f]? = some x) :
    (freshFields d).getD f [] = zeros x.fixedSize := by
  simp [freshFields, List.getD_eq_getElem?_getD, h]

/-- The fields of a new builder fit: a LEN field holds 0, and its VAR field is empty (R127). -/
theorem fieldsFit_freshFields {n : Nat} {d : Descriptor} (hwf : Descriptor.wf n d = true) :
    FieldsFit d (freshFields d) := by
  refine (fieldsFit_iff _ _).2 ⟨freshFields_length d, fun f x hx => ⟨fun size hk => ?_, fun size target hk => ?_⟩⟩
  · rw [freshFields_getD hx, zeros_length, FieldDesc.fixedSize, hk]
  · obtain ⟨-, -, -, y, hy, hyk⟩ := FieldDesc.wf_len (Descriptor.field_wf hwf hx) hk
    rw [freshFields_getD hx, freshFields_getD hy, zeros_length, zeros_eq_beBytes]
    simp only [FieldDesc.fixedSize, hk, hyk]

/-- A FIXED field may be replaced by bytes of its size (R128). -/
theorem fieldsFit_set_fixed {n : Nat} {d : Descriptor} (hwf : Descriptor.wf n d = true) {fields : List Bytes}
    (h : FieldsFit d fields) {f : Nat} {x : FieldDesc} (hx : d[f]? = some x) {v : Bytes}
    (hk : x.kind = .fixed v.length) : FieldsFit d (fields.set f v) := by
  obtain ⟨hlen, hfit⟩ := (fieldsFit_iff _ _).1 h
  have hf : f < fields.length := hlen ▸ (List.getElem?_eq_some_iff.1 hx).1
  refine (fieldsFit_iff _ _).2 ⟨by simpa using hlen, fun g y hy => ?_⟩
  obtain ⟨hfixed, hlenField⟩ := hfit g y hy
  by_cases hfg : f = g
  · subst hfg
    obtain rfl : x = y := Option.some.inj (hx.symm.trans hy)
    rw [getD_set_same hf, hk]
    exact ⟨fun size hs => FieldKind.fixed.inj hs, fun size target ht => FieldKind.noConfusion ht⟩
  · rw [getD_set_ne _ hfg]
    refine ⟨hfixed, fun size target ht => ?_⟩
    rw [getD_set_ne _ (target_is_var hwf hx hy ht (by simp [hk]))]
    exact hlenField size target ht

/-- A VAR field may be replaced by any bytes, when its LEN field gets their count (R128). -/
theorem fieldsFit_set_var {n : Nat} {d : Descriptor} (hwf : Descriptor.wf n d = true) {fields : List Bytes}
    (h : FieldsFit d fields) {f lf size : Nat} {x y : FieldDesc} (hx : d[f]? = some x) (hxk : x.kind = .var lf)
    (hy : d[lf]? = some y) (hyk : y.kind = .len size f) (v : Bytes) :
    FieldsFit d ((fields.set f v).set lf (beBytes size v.length)) := by
  obtain ⟨hlen, hfit⟩ := (fieldsFit_iff _ _).1 h
  have hf : f < (fields.set f v).length := by simpa [hlen] using (List.getElem?_eq_some_iff.1 hx).1
  have hlf : lf < (fields.set f v).length := by simpa [hlen] using (List.getElem?_eq_some_iff.1 hy).1
  have hne : lf ≠ f := by
    rintro rfl
    obtain rfl : x = y := Option.some.inj (hx.symm.trans hy)
    exact FieldKind.noConfusion (hxk.symm.trans hyk)
  have value : ((fields.set f v).set lf (beBytes size v.length)).getD f [] = v := by
    rw [getD_set_ne _ hne, getD_set_same (by simpa using hf)]
  refine (fieldsFit_iff _ _).2 ⟨by simpa using hlen, fun g z hz => ?_⟩
  obtain ⟨hfixed, hlenField⟩ := hfit g z hz
  by_cases hg : lf = g
  · subst hg
    obtain rfl : y = z := Option.some.inj (hy.symm.trans hz)
    rw [hyk]
    refine ⟨fun s hs => FieldKind.noConfusion hs, fun s target ht => ?_⟩
    obtain ⟨rfl, rfl⟩ := FieldKind.len.inj ht
    rw [getD_set_same hlf, value]
  · by_cases hfg : f = g
    · subst hfg
      obtain rfl : x = z := Option.some.inj (hx.symm.trans hz)
      rw [hxk]
      exact ⟨fun s hs => FieldKind.noConfusion hs, fun s target ht => FieldKind.noConfusion ht⟩
    · rw [getD_set_ne _ hg, getD_set_ne _ hfg]
      refine ⟨hfixed, fun s target ht => ?_⟩
      have htarget : f ≠ target := by
        rintro rfl
        exact hg (len_target_unique hwf hx hxk hz ht).symm
      rw [getD_set_ne _ (target_is_var hwf hy hz ht (by simp [hyk])), getD_set_ne _ htarget]
      exact hlenField s target ht

/-- Each value that a parse has read is as long as its field wants (R141). -/
theorem readSoFar_value_length {a : Actor} {d : Descriptor} {input : Bytes} {values : List Bytes}
    (h : ReadSoFar a d input values) {f : Nat} {x : FieldDesc} (hf : f < values.length) (hx : d[f]? = some x) :
    (values.getD f []).length = fieldCount x (values.take f) := by
  obtain ⟨hroom, -, hvalue⟩ := h.2 f x hf hx
  rw [hvalue, conv_length, List.length_take, List.length_drop]
  omega

/-- What a parse has read of a whole structure fits it: a VAR field took as many bytes as its LEN field, read before
it, holds (R139, R141). -/
theorem fieldsFit_of_readSoFar {n : Nat} {d : Descriptor} (hwf : Descriptor.wf n d = true) {a : Actor} {input : Bytes}
    {values : List Bytes} (h : ReadSoFar a d input values) (hall : values.length = d.length) : FieldsFit d values := by
  have inside : ∀ {f : Nat} {x : FieldDesc}, d[f]? = some x → f < values.length :=
    fun hx => hall ▸ (List.getElem?_eq_some_iff.1 hx).1
  refine (fieldsFit_iff _ _).2 ⟨hall, fun f x hx => ⟨fun size hk => ?_, fun size target hk => ?_⟩⟩
  · rw [readSoFar_value_length h (inside hx) hx, fieldCount, hk]
  · obtain ⟨-, -, hlt, y, hy, hyk⟩ := FieldDesc.wf_len (Descriptor.field_wf hwf hx) hk
    have hsize : (values.getD f []).length = size := by rw [readSoFar_value_length h (inside hx) hx, fieldCount, hk]
    have htake : (values.take target).getD f [] = values.getD f [] := by
      rw [List.getD_eq_getElem?_getD, List.getElem?_take_of_lt hlt, ← List.getD_eq_getElem?_getD]
    rw [readSoFar_value_length h (inside hy) hy]
    simp only [fieldCount, hyk, htake]
    exact (beBytes_intBE_of_length hsize).symm

/-- Replacing a field by bytes of the same count leaves the sum of all counts. -/
theorem total_set_of_length_eq (fields : List Bytes) {f : Nat} {v : Bytes} (hf : f < fields.length)
    (h : v.length = (fields.getD f []).length) :
    ((fields.set f v).map List.length).sum = (fields.map List.length).sum := by
  have := total_set fields f v hf
  omega

theorem lenSize_of_len {d : Descriptor} {lf size target : Nat} {y : FieldDesc} (hy : d[lf]? = some y)
    (hk : y.kind = .len size target) : lenSize d lf = size := by
  simp [lenSize, hy, FieldDesc.fixedSize, hk]

end Sys2Proof.Safety

/-! ### The invariants under each update of the state (10_state.md R50) -/

namespace Sys2Proof.Safety

open Sys2Proof.Machine

variable {s : State}

/-- An empty buffer is in canonical form within any capacity. -/
theorem bufferOk_nil (n : Nat) : BufferOk [] n := ⟨Memory.wf_nil, fun _ hc => absurd hc List.not_mem_nil⟩

/-- A byte stored inside a buffer. -/
theorem bufferOk_write {m : Memory} {n i : Nat} (h : BufferOk m n) (hi : i < n) (v : Byte) :
    BufferOk (m.write i v) n :=
  ⟨m.wf_write i v h.1, m.below_write i n v h.2 hi⟩

/-- R51: the state after reset, whatever the parameters. -/
theorem invariants_resetWith (p : Params) : Invariants (State.resetWith p) where
  pos_le_limit := le_rfl
  limit_le := Nat.zero_le _
  ilen_le := Nat.zero_le _
  olen_le := Nat.zero_le _
  slen_le := Nat.zero_le _
  llen_le := Nat.zero_le _
  pmk_zero _ := rfl
  sek_zero _ := rfl
  smk_zero _ := rfl
  gkey_zero _ := rfl
  open_fits h := by simp [State.builderOpen, State.resetWith] at h
  closed_empty _ := ⟨rfl, rfl⟩
  fs_total := Nat.zero_le _
  err_empty _ := ⟨rfl, rfl⟩
  status_le := Nat.zero_le _
  esticky_reserved := BitVec.zero_and
  cfg_reserved := BitVec.zero_and
  prov_legal := .inl rfl
  ord_legal := by simp [State.ord, State.resetWith]
  kstat_reserved := BitVec.zero_and
  ssel_reserved := BitVec.zero_and
  ibuf_ok := bufferOk_nil _
  obuf_ok := bufferOk_nil _
  secret_ok := bufferOk_nil _
  lbuf_ok := bufferOk_nil _

theorem Invariants.resetBlock (s : State) : Invariants s.resetBlock :=
  { invariants_resetWith s.params with }

theorem Invariants.answered (h : Invariants s) (a : Answer) : Invariants (s.answered a) := { h with }

theorem Invariants.withPending (h : Invariants s) (rest : List HostAction) : Invariants (s.withPending rest) :=
  { h with }

theorem Invariants.afterDraw (h : Invariants s) : Invariants s.afterDraw := { h with }

theorem Invariants.setHeader (h : Invariants s) (w : Word) : Invariants (s.setHeader w) := { h with }

/-- Fault entry writes a code of R246, empties the output (R250), and sets a bit that is not reserved (R27). -/
theorem Invariants.faultEntry (h : Invariants s) (c : FaultCode) (i0 i1 i2 : Nat) :
    Invariants (s.faultEntry c i0 i1 i2) :=
  { h with
    olen_le := Nat.zero_le _
    err_empty := fun _ => ⟨rfl, rfl⟩
    status_le := by rw [State.faultEntry_status]; cases c <;> decide
    esticky_reserved := setBit_and_eq_zero h.esticky_reserved (by cases c <;> decide) }

/-- OK completion with an output that OBUF can hold (R249). -/
theorem Invariants.okCompletion (h : Invariants s) {out : Bytes} (hout : out.length ≤ s.params.obufBytes) (res : Word) :
    Invariants (s.okCompletion out res) :=
  { h with
    olen_le := by
      simp only [State.okCompletion_olen, State.okCompletion_params, BitVec.toNat_ofNat]
      exact (Nat.mod_le _ _).trans hout
    err_empty := fun he => absurd (okCompletion_err s out res) he
    status_le := Nat.zero_le _
    obuf_ok := ⟨s.obuf.wf_writeBytes 0 out h.obuf_ok.1,
      s.obuf.below_writeBytes 0 _ out h.obuf_ok.2 (by simpa using hout)⟩ }

/-- R208: no key, no secret. -/
theorem Invariants.clearKeys (h : Invariants s) : Invariants s.clearKeys :=
  { h with
    slen_le := Nat.zero_le _
    pmk_zero := fun _ => rfl
    sek_zero := fun _ => rfl
    smk_zero := fun _ => rfl
    gkey_zero := fun _ => rfl
    kstat_reserved := BitVec.zero_and
    secret_ok := bufferOk_nil _ }

/-- The cursor over the whole input (R107). -/
theorem Invariants.wrapCursor (h : Invariants s) : Invariants { s with limit := s.ilen, pos := 0 } :=
  { h with
    pos_le_limit := Nat.zero_le _
    limit_le := h.ilen_le }

/-- A cursor that does not go beyond `LIMIT` (R105). -/
theorem Invariants.setPos (h : Invariants s) {p : Nat} (hp : p ≤ s.limit.toNat) : Invariants (s.setPos p) :=
  { h with
    pos_le_limit := by
      simp only [State.setPos_pos, State.setPos_limit, BitVec.toNat_ofNat]
      exact (Nat.mod_le _ _).trans hp }

/-- A builder whose fields fit its structure and the field store (R127, R139). -/
theorem Invariants.openBuilder (h : Invariants s) {id : BitVec 8} {d : Descriptor} (hd : s.desc id = some d)
    {fields : List Bytes} (hfit : FieldsFit d fields) (htotal : (fields.map List.length).sum ≤ s.params.fsBytes) :
    Invariants (s.openBuilder id fields) :=
  { h with
    open_fits := fun _ => ⟨d, by rw [builderId_openBuilder]; exact hd, hfit⟩
    closed_empty := fun hc => absurd (builderOpen_openBuilder s id fields) (by simp [hc])
    fs_total := htotal
    ssel_reserved := sselOpen_reserved id }

/-- The fields of the open builder written (R128). -/
theorem Invariants.setFields (h : Invariants s) (ho : s.builderOpen = true) {d : Descriptor}
    (hd : s.desc s.builderId = some d) {fields : List Bytes} (hfit : FieldsFit d fields)
    (htotal : (fields.map List.length).sum ≤ s.params.fsBytes) : Invariants { s with fs := fields } :=
  { h with
    open_fits := fun _ => ⟨d, hd, hfit⟩
    closed_empty := fun hc => Bool.noConfusion (ho.symm.trans hc)
    fs_total := htotal }

/-- `setSlot` writes the three slots and `KSTAT`, and nothing else. -/
theorem setSlot_eq (s : State) (k : Slot) (v : Bytes) :
    s.setSlot k v = { s with
      pmk := (s.setSlot k v).pmk, sek := (s.setSlot k v).sek, smk := (s.setSlot k v).smk
      kstat := (s.setSlot k v).kstat } := by
  cases k <;> rfl

/-- A slot written and made valid (R173): the other slots keep their bytes and their valid bits. -/
theorem Invariants.setSlot (h : Invariants s) (k : Slot) (v : Bytes) : Invariants (s.setSlot k v) := by
  have other : ∀ j, (s.setSlot k v).slotValid j = false → s.slotValid j = false ∧ k ≠ j := fun j hj => by
    rw [slotValid_setSlot, Bool.or_eq_false_iff, decide_eq_false_iff_not] at hj
    exact ⟨hj.1, Ne.symm hj.2⟩
  rw [setSlot_eq]
  exact { h with
    pmk_zero := fun hv => by
      obtain ⟨hold, hk⟩ := other .pmk hv
      simpa [hk] using h.pmk_zero hold
    sek_zero := fun hv => by
      obtain ⟨hold, hk⟩ := other .sek hv
      simpa [hk] using h.sek_zero hold
    smk_zero := fun hv => by
      obtain ⟨hold, hk⟩ := other .smk hv
      simpa [hk] using h.smk_zero hold
    gkey_zero := fun hv => h.gkey_zero ((gkeyValid_setSlot s k v).symm.trans hv)
    kstat_reserved := by
      rw [State.setSlot_kstat]
      exact setBit_and_eq_zero h.kstat_reserved (by cases k <;> decide) }

/-- The cipher key loaded and made valid (R186). -/
theorem Invariants.setGkey (h : Invariants s) (k : BitVec 256) : Invariants (s.setGkey k) :=
  { h with
    pmk_zero := fun hv => h.pmk_zero ((slotValid_setGkey s .pmk k).symm.trans hv)
    sek_zero := fun hv => h.sek_zero ((slotValid_setGkey s .sek k).symm.trans hv)
    smk_zero := fun hv => h.smk_zero ((slotValid_setGkey s .smk k).symm.trans hv)
    gkey_zero := fun hv => absurd (gkeyValid_setGkey s k) (by simp [hv])
    kstat_reserved := setBit_and_eq_zero h.kstat_reserved (by decide) }

/-! ### The invariants under a host write -/

/-- A length register holds a legal length whatever the host writes (R30, R34, R35). -/
theorem lengthStored_le {old v : Word} {max : Nat} (h : old.toNat ≤ max) : (lengthStored old v max).toNat ≤ max := by
  unfold lengthStored
  split
  · assumption
  · exact h

/-- A write to a register other than `CMD` (R49). -/
theorem Invariants.writeReg (h : Invariants s) (r : Reg) (v : Word) : Invariants (s.writeReg r v) := by
  cases r with
  | esticky =>
    exact { h with
      esticky_reserved := by
        show s.esticky &&& ~~~v &&& 0xFFFE0001#32 = 0
        rw [BitVec.and_assoc, BitVec.and_comm (~~~v), ← BitVec.and_assoc, h.esticky_reserved]
        exact BitVec.zero_and }
  | cfg =>
    exact { h with
      cfg_reserved := cfgStored_reserved v
      prov_legal := by
        rw [State.prov, show (s.writeReg .cfg v).cfg = cfgStored v from rfl, cfgStored_prov]
        split
        · exact .inr rfl
        · exact .inl rfl
      ord_legal := by
        rw [State.ord, show (s.writeReg .cfg v).cfg = cfgStored v from rfl, cfgStored_ord]
        split
        · decide
        · assumption }
  | ilen => exact { h with ilen_le := lengthStored_le h.ilen_le }
  | slen => exact { h with slen_le := lengthStored_le h.slen_le }
  | llen => exact { h with llen_le := lengthStored_le h.llen_le }
  | hcode | hlen | hclient | hid => exact { h with }
  | cmd | status | einfo0 | einfo1 | einfo2 | kstat | olen | pos | limit | res | ssel => exact h

/-- A byte written in a window (R38 to R41). -/
theorem Invariants.writeBuffer (h : Invariants s) {addr : BitVec 20} {b : Buffer} {i : Nat}
    (hb : bufferAt s.params addr = some (b, i)) (v : Byte) : Invariants (s.writeBuffer b i v) := by
  have hi := bufferAt_lt hb
  cases b with
  | ibuf => exact { h with ibuf_ok := bufferOk_write h.ibuf_ok hi v }
  | obuf => exact h
  | secret => exact { h with secret_ok := bufferOk_write h.secret_ok hi v }
  | lbuf => exact { h with lbuf_ok := bufferOk_write h.lbuf_ok hi v }

/-! ### Every command keeps the invariants -/

/-- An open builder has a descriptor that its fields fit (R50), and the model's `openDesc` is that descriptor. -/
theorem Invariants.openDesc_fits (h : Invariants s) (ho : s.builderOpen = true) :
    s.desc s.builderId = some s.openDesc ∧ FieldsFit s.openDesc s.fs := by
  obtain ⟨d, hd, hfit⟩ := h.open_fits ho
  have he : s.openDesc = d := by simp [State.openDesc, hd]
  exact ⟨he ▸ hd, he ▸ hfit⟩

/-- ST.SETF on a FIXED field: the field keeps its size (R128). -/
theorem Invariants.setFixedField (h : Invariants s) (ho : s.builderOpen = true) {f : Nat} {x : FieldDesc}
    (hx : s.openDesc[f]? = some x) (hk : x.kind = .fixed s.ilen.toNat) :
    Invariants { s with fs := s.fs.set f s.input } := by
  obtain ⟨hd, hfit⟩ := h.openDesc_fits ho
  have hwf := s.params.desc_wf _ _ hd
  have hlen : s.ilen.toNat = (s.fs.getD f []).length := ((((fieldsFit_iff _ _).1 hfit).2 f x hx).1 _ hk).symm
  have hf : f < s.fs.length := hfit.1 ▸ (List.getElem?_eq_some_iff.1 hx).1
  refine h.setFields ho hd (fieldsFit_set_fixed hwf hfit hx (by simpa using hk)) ?_
  rw [total_set_of_length_eq _ hf (by simpa using hlen)]
  exact h.fs_total

/-- ST.SETF on a VAR field: its LEN field is written with it and keeps its size, so the store grows or shrinks by the
VAR field alone, which the capacity test allows for (R128). -/
theorem Invariants.setVarField (h : Invariants s) (ho : s.builderOpen = true) {f lf : Nat} {x : FieldDesc}
    (hx : s.openDesc[f]? = some x) (hk : x.kind = .var lf)
    (hcap : s.fsTotal - (s.field f).length + s.ilen.toNat ≤ s.params.fsBytes) :
    Invariants { s with fs := (s.fs.set f s.input).set lf (beBytes (lenSize s.openDesc lf) s.ilen.toNat) } := by
  obtain ⟨hd, hfit⟩ := h.openDesc_fits ho
  have hwf := s.params.desc_wf _ _ hd
  obtain ⟨-, -, hlt, y, size, hy, hyk⟩ := FieldDesc.wf_var (Descriptor.field_wf hwf hx) hk
  have hf : f < s.fs.length := hfit.1 ▸ (List.getElem?_eq_some_iff.1 hx).1
  have hsize : (s.fs.getD lf []).length = size := by
    rw [(((fieldsFit_iff _ _).1 hfit).2 lf y hy).2 size f hyk, beBytes_length]
  rw [lenSize_of_len hy hyk]
  refine h.setFields ho hd (by simpa using fieldsFit_set_var hwf hfit hx hk hy hyk s.input) ?_
  have hlf : ((s.fs.set f s.input).getD lf []).length = size := by rw [getD_set_ne _ (by omega), hsize]
  rw [total_set_of_length_eq _ (by rw [List.length_set]; omega) (by rw [beBytes_length, hlf])]
  have htotal := total_set s.fs f s.input hf
  rw [input_length] at htotal
  simp only [State.fsTotal, State.field] at hcap
  omega

/-- A parse that has read the whole input leaves a builder whose fields fit (R139). -/
theorem Invariants.parsedBuilder (h : Invariants s) {id : BitVec 8} {a : Actor} {d : Descriptor} {values : List Bytes}
    (hd : s.desc id = some d) (hr : readFields a d [] s.input = .ok (values, []))
    (hcap : s.ilen.toNat ≤ s.params.fsBytes) : Invariants (s.openBuilder id values) := by
  obtain ⟨hread, hall, -, htotal⟩ := readSoFar_of_readFields hr
  rw [input_length] at htotal
  exact h.openBuilder hd (fieldsFit_of_readSoFar (s.params.desc_wf _ _ hd) hread hall) (htotal.trans hcap)

/-- The own writes of every command keep the invariants. -/
theorem Invariants.writes (h : Invariants s) {i : Instr} {t : State} (hw : Writes i s t) : Invariants t := by
  have hpos := h.pos_le_limit
  cases i with
  | nop | emapGet | emapSize | stGetf | stBuild | hdrBuild | hdrBuildt | hdrValid | kdfDerive | keyRd | gcmDec =>
    obtain rfl : t = s := hw
    exact h
  | srst =>
    obtain rfl : t = s.resetBlock := hw
    exact Invariants.resetBlock s
  | kclr =>
    obtain rfl : t = s.clearKeys := hw
    exact h.clearKeys
  | curWrap =>
    obtain rfl : t = { s with limit := s.ilen, pos := 0 } := hw
    exact h.wrapCursor
  | curRd16 | curRd32 | curRdn | curRdx =>
    obtain ⟨hn, rfl⟩ := hw
    simp only [State.remaining] at hn
    exact h.setPos (by omega)
  | curSkip | curSeek =>
    obtain ⟨hn, rfl⟩ := hw
    exact h.setPos hn
  | stNew id =>
    obtain ⟨d, hd, rfl⟩ := hw
    have hwf := s.params.desc_wf _ _ hd
    exact h.openBuilder hd (fieldsFit_freshFields hwf) (freshFields_total d ▸ Descriptor.total_le hwf)
  | stSetf f =>
    obtain ⟨ho, x, hx, ⟨hk, rfl⟩ | ⟨lf, hk, hcap, rfl⟩⟩ := hw
    · exact h.setFixedField ho hx hk
    · exact h.setVarField ho hx hk hcap
  | stParse id a =>
    obtain ⟨d, values, hd, hr, -, hcap, rfl⟩ := hw
    exact h.parsedBuilder hd hr hcap
  | hdrParse | hdrParset =>
    obtain rfl : t = s.setHeader _ := hw
    exact h.setHeader _
  | kdfPmk | kdfSek | kdfSmk =>
    obtain ⟨-, v, rfl⟩ := hw
    exact h.setSlot _ v
  | gkeyLd src =>
    obtain ⟨k, rfl⟩ := hw
    exact h.setGkey k
  | gcmEnc =>
    obtain rfl : t = s.afterDraw := hw
    exact h.afterDraw

/-- Every command keeps the invariants, whether it ends OK or with a fault. -/
theorem Invariants.exec (h : Invariants s) {i : Instr} {t : State} (he : exec i s = .next t) : Invariants t := by
  obtain ⟨c, i0, i1, i2, -, rfl⟩ | ⟨w, out, res, hw, hout, rfl⟩ := exec_next_cases he
  · exact h.faultEntry c i0 i1 i2
  · exact (h.writes hw).okCompletion (hw.params_eq ▸ hout) res

/-- Settles O13: each way a step can go is an update that keeps the invariants, or runs a command. -/
theorem stepKeepsInvariant : Obligations.StepKeepsInvariant := by
  intro s t h hstep
  obtain ⟨-, rfl⟩ | ⟨a, rest, -, hreset | hread32 | hread8 | hwrite32 | hwrite8 | hcommand | hillegal⟩ :=
    step_cases hstep
  · exact h
  · obtain ⟨-, rfl⟩ := hreset
    exact (Invariants.resetBlock _).answered _
  · obtain ⟨addr, r, -, -, rfl⟩ := hread32
    exact (h.withPending rest).answered _
  · obtain ⟨addr, b, i, -, -, rfl⟩ := hread8
    exact (h.withPending rest).answered _
  · obtain ⟨addr, r, v, -, -, -, rfl⟩ := hwrite32
    exact ((h.withPending rest).writeReg r v).answered _
  · obtain ⟨addr, v, b, i, -, hb, rfl⟩ := hwrite8
    exact ((h.withPending rest).writeBuffer hb v).answered _
  · obtain ⟨w, i, -, -, hexec⟩ := hcommand
    exact ((h.withPending rest).answered .done).exec hexec
  · obtain ⟨w, e, -, -, rfl⟩ := hillegal
    exact ((h.withPending rest).answered .done).faultEntry _ _ _ _

/-- Settles O14: the state after reset is the reset state of the block's parameters (R51). -/
theorem resetMeetsInvariant : Obligations.ResetMeetsInvariant := invariants_resetWith Config.params

end Sys2Proof.Safety

/-! ### Two runs that differ in `GKEY` alone (10_state.md R43) -/

namespace Sys2Proof.Machine

/-- The state with another cipher key, `KSTAT` as it was. -/
def State.withGkey (s : State) (k : BitVec 256) : State := { s with gkey := k }

/-- The ending with another cipher key in the state that the command's writes have made. -/
def Ending.withGkey (k : BitVec 256) (e : Ending) : Ending :=
  match e with
  | .ok t out res => .ok (t.withGkey k) out res
  | .raise c i0 i1 i2 => .raise c i0 i1 i2

/-- The ending of a test between two endings. -/
theorem Ending.withGkey_ite (k : BitVec 256) (c : Prop) [Decidable c] (e e' : Ending) :
    Ending.withGkey k (if c then e else e') = if c then e.withGkey k else e'.withGkey k := apply_ite _ c e e'

/-- Endings that differ in `GKEY` alone complete from states that differ in `GKEY` alone to states that do so too. -/
theorem complete_withGkey (s : State) (k k' : BitVec 256) (e : Ending) :
    ∃ k'', (s.withGkey k).complete (e.withGkey k') = (s.complete e).withGkey k'' := by
  cases e with
  | ok t out res => exact ⟨k', rfl⟩
  | raise c i0 i1 i2 => exact ⟨k, rfl⟩

theorem readScalar_withGkey (s : State) (k : BitVec 256) (o : ReadOrder) (n : Nat) :
    readScalar (s.withGkey k) o n = (readScalar s o n).withGkey k := by
  unfold readScalar
  rw [Ending.withGkey_ite]
  rfl

theorem readOut_withGkey (s : State) (k : BitVec 256) (n : Nat) :
    readOut (s.withGkey k) n = (readOut s n).withGkey k := by
  unfold readOut
  rw [Ending.withGkey_ite]
  rfl

theorem moveTo_withGkey (s : State) (k : BitVec 256) (n : Nat) : moveTo (s.withGkey k) n = (moveTo s n).withGkey k := by
  unfold moveTo
  rw [Ending.withGkey_ite]
  rfl

theorem setFixed_withGkey (s : State) (k : BitVec 256) (f size : Nat) :
    setFixed (s.withGkey k) f size = (setFixed s f size).withGkey k := by
  unfold setFixed
  rw [Ending.withGkey_ite]
  rfl

theorem setVar_withGkey (s : State) (k : BitVec 256) (f lf : Nat) :
    setVar (s.withGkey k) f lf = (setVar s f lf).withGkey k := by
  unfold setVar
  rw [Ending.withGkey_ite]
  rfl

theorem outOrCapacity_withGkey (s : State) (k : BitVec 256) (out : Bytes) :
    outOrCapacity (s.withGkey k) out = (outOrCapacity s out).withGkey k := by
  unfold outOrCapacity
  rw [Ending.withGkey_ite]
  rfl

theorem parseHeader_withGkey (s : State) (k : BitVec 256) (o : ByteOrder) :
    parseHeader (s.withGkey k) o = (parseHeader s o).withGkey k := by
  unfold parseHeader
  rw [Ending.withGkey_ite]
  rfl

theorem checkStatus_withGkey (s : State) (k : BitVec 256) (w : Word) :
    checkStatus (s.withGkey k) w = (checkStatus s w).withGkey k := by
  obtain ⟨h, e⟩ | ⟨h, h0, e⟩ | ⟨h, h0, e⟩ := checkStatus_cases s w <;> rw [e]
  · exact if_pos h
  · exact (if_neg h).trans (if_pos h0)
  · exact (if_neg h).trans (if_neg (not_not.2 h0))

theorem deriveSlot_withGkey (s : State) (k : BitVec 256) (j : Slot) :
    deriveSlot (s.withGkey k) j = (deriveSlot s j).withGkey k := by
  obtain ⟨h, e⟩ | ⟨h, h0, e⟩ | ⟨h, h0, e⟩ := deriveSlot_cases s j <;> rw [e]
  · exact if_pos h
  · exact (if_neg (Bool.not_eq_true _ ▸ h)).trans (if_pos h0)
  · exact ((if_neg (Bool.not_eq_true _ ▸ h)).trans (if_neg h0)).trans (by cases j <;> rfl)

theorem parseWith_withGkey (s : State) (k : BitVec 256) (id : BitVec 8) (a : Actor) (d : Descriptor) :
    parseWith (s.withGkey k) id a d = (parseWith s id a d).withGkey k := by
  have hinput : (s.withGkey k).input = s.input := rfl
  unfold parseWith
  rw [hinput]
  cases readFields a d [] s.input with
  | error e => rfl
  | ok r =>
    obtain ⟨values, rest⟩ := r
    cases hm : badMagic 0 d values with
    | some fv => simp only [hm]; rfl
    | none =>
      simp only [hm, Ending.withGkey_ite]
      rfl

/-- Every command but GCM.ENC and GCM.DEC, run with another cipher key, ends with the same output, result and fault. -/
theorem exec_withGkey (i : Instr) (henc : i ≠ .gcmEnc) (hdec : i ≠ .gcmDec) (s : State) (k : BitVec 256) :
    ∃ e k', exec i s = finish s e ∧ exec i (s.withGkey k) = finish (s.withGkey k) (e.withGkey k') := by
  cases i with
  | nop => exact ⟨_, k, rfl, rfl⟩
  | srst => exact ⟨_, 0, rfl, rfl⟩
  | kclr => exact ⟨_, 0, rfl, rfl⟩
  | curWrap => exact ⟨_, k, rfl, rfl⟩
  | curRd16 o => exact ⟨_, k, rfl, congrArg (finish _) (readScalar_withGkey s k o 2)⟩
  | curRd32 o => exact ⟨_, k, rfl, congrArg (finish _) (readScalar_withGkey s k o 4)⟩
  | curRdn n =>
    refine ⟨_, k, rfl, congrArg (finish _) ?_⟩
    rw [Ending.withGkey_ite, ← readOut_withGkey]
    rfl
  | curRdx n =>
    refine ⟨_, k, rfl, congrArg (finish _) ?_⟩
    rw [Ending.withGkey_ite, Ending.withGkey_ite, ← readOut_withGkey]
    rfl
  | curSkip n => exact ⟨_, k, rfl, congrArg (finish _) (moveTo_withGkey s k _)⟩
  | curSeek n => exact ⟨_, k, rfl, congrArg (finish _) (moveTo_withGkey s k _)⟩
  | emapGet id f a =>
    refine ⟨_, k, rfl, congrArg (finish _) ?_⟩
    rw [show (s.withGkey k).desc id = s.desc id from rfl]
    cases s.desc id with
    | none => rfl
    | some d =>
      simp only
      cases d[f.toNat]? <;> rfl
  | emapSize id a =>
    refine ⟨_, k, rfl, congrArg (finish _) ?_⟩
    rw [show (s.withGkey k).desc id = s.desc id from rfl]
    cases s.desc id <;> rfl
  | stNew id =>
    refine ⟨_, k, rfl, congrArg (finish _) ?_⟩
    rw [show (s.withGkey k).desc id = s.desc id from rfl]
    cases s.desc id <;> rfl
  | stSetf f =>
    refine ⟨_, k, rfl, congrArg (finish _) ?_⟩
    rw [Ending.withGkey_ite, show (s.withGkey k).openDesc = s.openDesc from rfl]
    refine if_congr Iff.rfl rfl ?_
    cases s.openDesc[f.toNat]? with
    | none => rfl
    | some x =>
      cases hk : x.kind with
      | fixed size => simp only [hk]; exact setFixed_withGkey s k _ _
      | len size target => simp only [hk]; rfl
      | var lf => simp only [hk]; exact setVar_withGkey s k _ _
  | stGetf f =>
    refine ⟨_, k, rfl, congrArg (finish _) ?_⟩
    rw [Ending.withGkey_ite, Ending.withGkey_ite, ← outOrCapacity_withGkey]
    rfl
  | stBuild a =>
    refine ⟨_, k, rfl, congrArg (finish _) ?_⟩
    rw [Ending.withGkey_ite, ← outOrCapacity_withGkey]
    rfl
  | stParse id a =>
    refine ⟨_, k, rfl, congrArg (finish _) ?_⟩
    rw [show (s.withGkey k).desc id = s.desc id from rfl]
    cases s.desc id with
    | none => rfl
    | some d => exact parseWith_withGkey s k id a d
  | hdrBuild => exact ⟨_, k, rfl, rfl⟩
  | hdrBuildt => exact ⟨_, k, rfl, rfl⟩
  | hdrParse => exact ⟨_, k, rfl, congrArg (finish _) (parseHeader_withGkey s k .big)⟩
  | hdrParset => exact ⟨_, k, rfl, congrArg (finish _) (parseHeader_withGkey s k .little)⟩
  | hdrValid o =>
    refine ⟨_, k, rfl, congrArg (finish _) ?_⟩
    rw [Ending.withGkey_ite, ← checkStatus_withGkey]
    rfl
  | kdfDerive n =>
    refine ⟨_, k, rfl, congrArg (finish _) ?_⟩
    rw [Ending.withGkey_ite, Ending.withGkey_ite]
    rfl
  | kdfPmk => exact ⟨_, k, rfl, congrArg (finish _) (deriveSlot_withGkey s k .pmk)⟩
  | kdfSek => exact ⟨_, k, rfl, congrArg (finish _) (deriveSlot_withGkey s k .sek)⟩
  | kdfSmk => exact ⟨_, k, rfl, congrArg (finish _) (deriveSlot_withGkey s k .smk)⟩
  | keyRd j =>
    refine ⟨_, k, rfl, congrArg (finish _) ?_⟩
    rw [Ending.withGkey_ite]
    cases j <;> rfl
  | gkeyLd src =>
    cases src with
    | ibuf =>
      refine ⟨_, BitVec.ofNat 256 (intBE s.input), rfl, congrArg (finish _) ?_⟩
      simp only [Ending.withGkey_ite]
      rfl
    | sek =>
      refine ⟨_, s.sek, rfl, congrArg (finish _) ?_⟩
      simp only [Ending.withGkey_ite]
      rfl
  | gcmEnc => exact absurd rfl henc
  | gcmDec => exact absurd rfl hdec

end Sys2Proof.Machine

/-! ### The commands without an operand, from their words (30_encoding.md R87) -/

namespace Sys2Proof

theorem requireZero_eq_ok {zero : Bool} {r : Except DecodeError Instr} {i : Instr} :
    requireZero zero r = .ok i ↔ zero = true ∧ r = .ok i := by
  cases zero <;> simp [requireZero]

theorem decodeZ_eq_ok {w : Word} {i j : Instr} :
    decodeZ w i = .ok j ↔ fieldA w = 0 ∧ fieldN w = 0 ∧ i = j := by
  simp [decodeZ, requireZero_eq_ok, and_assoc]

theorem decodeN_eq_ok {w : Word} {mk : BitVec 16 → Instr} {j : Instr} :
    decodeN w mk = .ok j ↔ fieldA w = 0 ∧ mk (fieldN w) = j := by
  simp [decodeN, requireZero_eq_ok]

theorem decodeS_eq_ok {w : Word} {zero : Bool} {i j : Instr} :
    decodeS w zero i = .ok j ↔ (zero = true ∧ w.extractLsb' 1 7 = 0) ∧ i = j := by
  simp [decodeS, requireZero_eq_ok]

/-- A selector that is not reserved goes into the command. -/
theorem exists_of_map_selector {α : Type} {sel : Except DecodeError α} {mk : α → Instr} {j : Instr}
    (h : sel.map mk = .ok j) : ∃ x, mk x = j := by
  cases sel with
  | error e => cases h
  | ok x => exact ⟨x, Except.ok.inj h⟩

theorem exists_of_decodeO {w : Word} {mk : ReadOrder → Instr} {j : Instr} (h : decodeO w mk = .ok j) : ∃ o, mk o = j :=
  exists_of_map_selector (requireZero_eq_ok.1 h).2

theorem exists_of_decodeK {α : Type} {w : Word} {sel : Except DecodeError α} {mk : α → Instr} {j : Instr}
    (h : decodeK w sel mk = .ok j) : ∃ x, mk x = j :=
  exists_of_map_selector (requireZero_eq_ok.1 h).2

/-- A word that decodes carries the opcode of its command (R86, R93). -/
theorem opcOf_of_decode {w : Word} {i : Instr} (h : decode w = .ok i) : opcOf w = opcOf (encode i) := by
  unfold decode at h
  split at h
  -- Format Z.
  case h_1 ho | h_2 ho | h_3 ho | h_4 ho | h_18 ho | h_19 ho | h_20 ho | h_21 ho | h_24 ho | h_25 ho | h_26 ho | h_29 ho
      | h_30 ho =>
    obtain ⟨-, -, rfl⟩ := decodeZ_eq_ok.1 h
    exact ho
  -- Format O.
  case h_5 ho | h_6 ho =>
    obtain ⟨o, rfl⟩ := exists_of_decodeO h
    simpa [encode] using ho
  -- Format N.
  case h_7 ho | h_8 ho | h_9 ho | h_10 ho | h_23 ho =>
    obtain ⟨-, rfl⟩ := decodeN_eq_ok.1 h
    simpa [encode] using ho
  -- Format S.
  case h_11 ho | h_12 ho | h_13 ho | h_14 ho | h_15 ho | h_16 ho | h_17 ho =>
    obtain ⟨-, rfl⟩ := decodeS_eq_ok.1 h
    simpa [encode] using ho
  -- HDR.VALID.
  case h_22 ho =>
    obtain ⟨-, hi⟩ := requireZero_eq_ok.1 h
    cases hi
    simpa [encode] using ho
  -- Format K with a two-bit selector.
  case h_27 ho | h_28 ho =>
    obtain ⟨x, rfl⟩ := exists_of_decodeK h
    simpa [encode] using ho
  -- Unknown opcode.
  case h_31 => cases h

/-- A word of format Z is its opcode, with zeros below. -/
theorem eq_wordOf_of_decodeZ {w : Word} {o : BitVec 8} {i : Instr} (ho : opcOf w = o) (h : decodeZ w i = .ok i) :
    w = wordOf o 0 0 0 := by
  obtain ⟨ha, hn, -⟩ := decodeZ_eq_ok.1 h
  have hfields := wordOf_fields w
  rw [← hfields, fieldN_wordOf] at hn
  have hb : fieldB w = 0 := by
    have := congrArg (BitVec.extractLsb' 8 8) hn
    rwa [BitVec.extractLsb'_append_eq_left] at this
  have hc : fieldC w = 0 := by
    have := congrArg (BitVec.extractLsb' 0 8) hn
    rwa [BitVec.extractLsb'_append_eq_right] at this
  rw [← hfields, ho, ha, hb, hc]

theorem eq_encode_srst {w : Word} (h : decode w = .ok .srst) : w = encode .srst := by
  have ho : opcOf w = 0x01#8 := opcOf_of_decode h
  exact eq_wordOf_of_decodeZ ho (by simpa only [decode, ho] using h)

theorem eq_encode_gcmEnc {w : Word} (h : decode w = .ok .gcmEnc) : w = encode .gcmEnc := by
  have ho : opcOf w = 0x51#8 := opcOf_of_decode h
  exact eq_wordOf_of_decodeZ ho (by simpa only [decode, ho] using h)

theorem eq_encode_gcmDec {w : Word} (h : decode w = .ok .gcmDec) : w = encode .gcmDec := by
  have ho : opcOf w = 0x52#8 := opcOf_of_decode h
  exact eq_wordOf_of_decodeZ ho (by simpa only [decode, ho] using h)

end Sys2Proof

/-! ### One step, for each kind of host action (20_memory.md R62 to R65; 10_state.md R24) -/

namespace Sys2Proof.Machine

section
variable {s : State} {rest : List HostAction}

theorem step_reset (h : s.pending = .reset :: rest) :
    step s = .next ((s.withPending rest).resetBlock.answered .idle) := step_act s _ rest h

theorem step_read32 {addr : BitVec 20} {r : Reg} (h : s.pending = .read32 addr :: rest) (hr : regAt addr = some r) :
    step s = .next ((s.withPending rest).answered (.data (s.readReg r))) := by
  rw [step_act s _ rest h]
  simp only [hostAct, hr]
  cases r <;> rfl

theorem step_write32 {addr : BitVec 20} {r : Reg} {v : Word} (h : s.pending = .write32 addr v :: rest)
    (hr : regAt addr = some r) (hne : r ≠ .cmd) :
    step s = .next (((s.withPending rest).writeReg r v).answered .done) := by
  rw [step_act s _ rest h]
  simp only [hostAct, hr]
  exact writeRegister_of_ne r v _ hne

theorem step_read8 {addr : BitVec 20} {b : Buffer} {i : Nat} (h : s.pending = .read8 addr :: rest)
    (hb : bufferAt s.params addr = some (b, i)) :
    step s = .next ((s.withPending rest).answered (.data ((s.readBuffer b i).zeroExtend 32))) := by
  rw [step_act s _ rest h]
  simp only [hostAct, State.withPending_params, hb]
  cases b <;> rfl

theorem step_write8 {addr : BitVec 20} {v : Byte} {b : Buffer} {i : Nat} (h : s.pending = .write8 addr v :: rest)
    (hb : bufferAt s.params addr = some (b, i)) :
    step s = .next (((s.withPending rest).writeBuffer b i v).answered .done) := by
  rw [step_act s _ rest h]
  simp only [hostAct, State.withPending_params, hb]

/-- A write to `CMD` runs the command that the word is (R24). -/
theorem step_command {w : Word} {i : Instr} (h : s.pending = .write32 0x00000#20 w :: rest) (hi : decode w = .ok i) :
    step s = exec i ((s.withPending rest).answered .done) := by
  rw [step_act s _ rest h]
  show runCommand w ((s.withPending rest).answered .done) = _
  simp only [runCommand, hi]

/-- A write to `CMD` of an illegal word ends with `E_ILLCMD` (R95). -/
theorem step_illegal {w : Word} {e : DecodeError} (h : s.pending = .write32 0x00000#20 w :: rest)
    (he : decode w = .error e) :
    step s = .next (((s.withPending rest).answered .done).faultEntry .illCmd w.toNat 0 0) := by
  rw [step_act s _ rest h]
  show runCommand w ((s.withPending rest).answered .done) = _
  simp only [runCommand, he]

end

end Sys2Proof.Machine

/-! ### `GKEY` is never shown (10_state.md R43) -/

namespace Sys2Proof.Safety

open Sys2Proof.Machine

theorem withPending_withGkey (s : State) (k : BitVec 256) (rest : List HostAction) :
    (s.withGkey k).withPending rest = (s.withPending rest).withGkey k := rfl

theorem writeReg_withGkey (s : State) (k : BitVec 256) (r : Reg) (v : Word) :
    (s.withGkey k).writeReg r v = (s.writeReg r v).withGkey k := by
  cases r <;> rfl

theorem writeBuffer_withGkey (s : State) (k : BitVec 256) (b : Buffer) (i : Nat) (v : Byte) :
    (s.withGkey k).writeBuffer b i v = (s.writeBuffer b i v).withGkey k := by
  cases b <;> rfl

theorem readReg_withGkey (s : State) (k : BitVec 256) (r : Reg) : (s.withGkey k).readReg r = s.readReg r := by
  cases r <;> rfl

theorem readBuffer_withGkey (s : State) (k : BitVec 256) (b : Buffer) (i : Nat) :
    (s.withGkey k).readBuffer b i = s.readBuffer b i := by
  cases b <;> rfl

/-- Settles O25: no register, no window and no command but the two of GCM reads `GKEY`, so a step from a state with
another key goes the same way. -/
theorem cipherKeyIsNeverShown : Obligations.CipherKeyIsNeverShown := by
  intro s t k hstep hno
  show ∃ k', step (s.withGkey k) = .next (t.withGkey k')
  obtain ⟨hp, rfl⟩ | ⟨a, rest, hp, hreset | hread32 | hread8 | hwrite32 | hwrite8 | hcommand | hillegal⟩ :=
    step_cases hstep
  · exact ⟨k, step_idle _ hp⟩
  · obtain ⟨rfl, rfl⟩ := hreset
    exact ⟨0, step_reset (s := s.withGkey k) hp⟩
  · obtain ⟨addr, r, rfl, hr, rfl⟩ := hread32
    refine ⟨k, (step_read32 (s := s.withGkey k) hp hr).trans ?_⟩
    rw [readReg_withGkey]
    rfl
  · obtain ⟨addr, b, i, rfl, hb, rfl⟩ := hread8
    refine ⟨k, (step_read8 (s := s.withGkey k) hp hb).trans ?_⟩
    rw [readBuffer_withGkey]
    rfl
  · obtain ⟨addr, r, v, rfl, hr, hne, rfl⟩ := hwrite32
    refine ⟨k, (step_write32 (s := s.withGkey k) hp hr hne).trans ?_⟩
    rw [withPending_withGkey, writeReg_withGkey]
    rfl
  · obtain ⟨addr, v, b, i, rfl, hb, rfl⟩ := hwrite8
    refine ⟨k, (step_write8 (s := s.withGkey k) hp hb).trans ?_⟩
    rw [withPending_withGkey, writeBuffer_withGkey]
    rfl
  · obtain ⟨w, i, rfl, hi, hexec⟩ := hcommand
    obtain ⟨hnoEnc, hnoDec⟩ := hno _ (by rw [hp]; rfl)
    have henc : i ≠ .gcmEnc := by
      rintro rfl
      exact hnoEnc (eq_encode_gcmEnc hi ▸ rfl)
    have hdec : i ≠ .gcmDec := by
      rintro rfl
      exact hnoDec (eq_encode_gcmDec hi ▸ rfl)
    obtain ⟨e, k₁, he, he'⟩ := exec_withGkey i henc hdec ((s.withPending rest).answered .done) k
    obtain ⟨k₂, hk₂⟩ := complete_withGkey ((s.withPending rest).answered .done) k k₁ e
    rw [he, finish_eq_next] at hexec
    refine ⟨k₂, (step_command (s := s.withGkey k) hp hi).trans (he'.trans ?_)⟩
    rw [finish_eq_next, hk₂, hexec]
  · obtain ⟨w, e, rfl, he, rfl⟩ := hillegal
    exact ⟨k, step_illegal (s := s.withGkey k) hp he⟩

end Sys2Proof.Safety

/-! ### What the host port does (20_memory.md R61 to R66; 10_state.md R24 to R41, R49; 70_reset_and_hazards.md R280) -/

namespace Sys2Proof.Machine

theorem step_read32_at (s : State) (rest : List HostAction) {addr : BitVec 20} {r : Reg} (hr : regAt addr = some r) :
    step { s with pending := .read32 addr :: rest } =
      .next { s with pending := rest, answer := .data (s.readReg r) } :=
  (step_read32 rfl hr).trans (by cases r <;> rfl)

theorem step_write32_at (s : State) (rest : List HostAction) {addr : BitVec 20} {r : Reg} (v : Word)
    (hr : regAt addr = some r) (hne : r ≠ .cmd) :
    step { s with pending := .write32 addr v :: rest } =
      .next { s.writeReg r v with pending := rest, answer := .done } :=
  (step_write32 rfl hr hne).trans (by cases r <;> rfl)

/-- The address of the byte `i` of a window, which 20 bits can hold (R61). -/
theorem bufferAt_ofNat {p : Params} {b : Buffer} {i : Nat} (h : i < windowSize p b) :
    bufferAt p (BitVec.ofNat 20 (windowBase b + i)) = some (b, i) := by
  obtain ⟨⟨-, hibuf⟩, ⟨-, hobuf⟩, -, -, hsecret⟩ := p.bounds
  refine bufferAt_eq_some.2 ⟨?_, h⟩
  rw [BitVec.toNat_ofNat]
  refine Nat.mod_eq_of_lt ?_
  cases b <;> simp only [windowSize, windowBase] at h ⊢ <;> omega

theorem step_read8_at (s : State) (rest : List HostAction) {b : Buffer} {i : Nat} (h : i < windowSize s.params b) :
    step { s with pending := .read8 (BitVec.ofNat 20 (windowBase b + i)) :: rest } =
      .next { s with pending := rest, answer := .data ((s.readBuffer b i).zeroExtend 32) } :=
  (step_read8 (s := { s with pending := _ }) rfl (bufferAt_ofNat h)).trans (by cases b <;> rfl)

theorem step_write8_at (s : State) (rest : List HostAction) {b : Buffer} {i : Nat} (v : Byte)
    (h : i < windowSize s.params b) :
    step { s with pending := .write8 (BitVec.ofNat 20 (windowBase b + i)) v :: rest } =
      .next { s.writeBuffer b i v with pending := rest, answer := .done } :=
  (step_write8 (s := { s with pending := _ }) rfl (bufferAt_ofNat h)).trans (by cases b <;> rfl)

/-- Settles O6: the word decodes, so the write to `CMD` is that command's `exec`. -/
theorem stepRunsTheDecodedCommand : Obligations.StepRunsTheDecodedCommand :=
  fun _ _ _ _ hp hi => step_command hp hi

/-- Settles O8: at each address of the map, the read of the register that stands there. -/
theorem registerReadsAnswerTheRegister : Obligations.RegisterReadsAnswerTheRegister := by
  intro s rest
  have read : ∀ {addr : BitVec 20} (r : Reg), regAt addr = some r →
      step { s with pending := .read32 addr :: rest } =
        .next { s with pending := rest, answer := .data (s.readReg r) } := fun _ => step_read32_at s rest
  exact ⟨read .cmd rfl, read .status rfl, read .einfo0 rfl, read .einfo1 rfl, read .einfo2 rfl, read .esticky rfl,
    read .cfg rfl, read .kstat rfl, read .ilen rfl, read .olen rfl, read .pos rfl, read .limit rfl, read .res rfl,
    read .slen rfl, read .llen rfl, read .ssel rfl, read .hcode rfl, read .hlen rfl, read .hclient rfl, read .hid rfl⟩

/-- Settles O9: at each address, what `writeReg` stores in the register that stands there; `CFG` holds `cfgStored`. -/
theorem registerWritesActAsListed : Obligations.RegisterWritesActAsListed := by
  intro s rest v
  have write : ∀ {addr : BitVec 20} (r : Reg), regAt addr = some r → r ≠ .cmd →
      step { s with pending := .write32 addr v :: rest } =
        .next { s.writeReg r v with pending := rest, answer := .done } := fun _ => step_write32_at s rest v
  exact ⟨write .esticky rfl (by decide),
    ⟨cfgStored v, write .cfg rfl (by decide), cfgStored_prov v, cfgStored_ord v, cfgStored_curle v,
      cfgStored_reserved v⟩,
    write .ilen rfl (by decide), write .slen rfl (by decide), write .llen rfl (by decide),
    write .hcode rfl (by decide), write .hlen rfl (by decide), write .hclient rfl (by decide),
    write .hid rfl (by decide), write .status rfl (by decide), write .einfo0 rfl (by decide),
    write .einfo1 rfl (by decide), write .einfo2 rfl (by decide), write .kstat rfl (by decide),
    write .olen rfl (by decide), write .pos rfl (by decide), write .limit rfl (by decide),
    write .res rfl (by decide), write .ssel rfl (by decide)⟩

/-- OBUF shows its byte below `OLEN` (R39). -/
theorem readBuffer_obuf_below {s : State} {i : Nat} (h : i < s.olen.toNat) : s.readBuffer .obuf i = s.obuf.read i :=
  if_pos h

/-- OBUF reads 0x00 at and above `OLEN` (R39). -/
theorem readBuffer_obuf_above {s : State} {i : Nat} (h : s.olen.toNat ≤ i) : s.readBuffer .obuf i = 0 :=
  if_neg (Nat.not_lt.2 h)

/-- Settles O10: each window answers what `readBuffer` gives for its buffer. -/
theorem bufferReadsAnswerTheByte : Obligations.BufferReadsAnswerTheByte := by
  intro s rest i
  refine ⟨fun h => step_read8_at s rest (b := .ibuf) h, fun h hbelow => ?_, fun h habove => ?_,
    fun h => step_read8_at s rest (b := .secret) h, fun h => step_read8_at s rest (b := .lbuf) h⟩
  · rw [← readBuffer_obuf_below hbelow]
    exact step_read8_at s rest (b := .obuf) h
  · rw [← readBuffer_obuf_above habove]
    exact step_read8_at s rest (b := .obuf) h

/-- Settles O11: the byte read back is the byte written, and the buffer's other bytes are those of before. -/
theorem bufferWritesStoreTheByte : Obligations.BufferWritesStoreTheByte := by
  intro s rest i v
  have stores : ∀ m : Memory, (m.write i v).read i = v ∧ ∀ k, k ≠ i → (m.write i v).read k = m.read k :=
    fun m => ⟨m.read_write_same i v, fun k hk => m.read_write_ne i k v hk⟩
  exact ⟨fun h => ⟨_, step_write8_at s rest (b := .ibuf) v h, stores _⟩,
    fun h => step_write8_at s rest (b := .obuf) v h,
    fun h => ⟨_, step_write8_at s rest (b := .secret) v h, stores _⟩,
    fun h => ⟨_, step_write8_at s rest (b := .lbuf) v h, stores _⟩⟩

/-- Settles O15: the values `resetWith` gives, and buffers without a cell. -/
theorem resetStateIsTheTable : Obligations.ResetStateIsTheTable :=
  ⟨rfl, rfl, rfl, rfl, rfl, rfl, rfl, rfl, rfl, rfl, rfl, rfl, rfl, rfl, rfl, rfl, rfl, rfl, rfl,
    fun a => ⟨Memory.read_nil a, Memory.read_nil a, Memory.read_nil a⟩, rfl, rfl, rfl, rfl, rfl⟩

/-- Settles O16: the reset input is `resetBlock`, which keeps the parameters and the environment. -/
theorem resetInputResetsTheBlock : Obligations.ResetInputResetsTheBlock := fun _ _ hp => step_reset hp

end Sys2Proof.Machine

/-! ### Which part of the state each command writes (10_state.md R28 to R44) -/

namespace Sys2Proof

/-- The parts of the state that commands write, beside the completion registers. -/
inductive WrittenPart where
  /-- Nothing. -/
  | nothing
  /-- The whole block (R207). -/
  | block
  /-- The keys and the secret (R208). -/
  | keys
  /-- `POS` and `LIMIT` (R32). -/
  | cursor
  /-- The field store and `SSEL` (R36, R44). -/
  | builder
  /-- The four header registers (R37). -/
  | header
  /-- A key slot and its valid bit (R42). -/
  | slot (k : Slot)
  /-- `GKEY` and its valid bit (R43). -/
  | cipherKey
  /-- The draws of the `RNG` (R189). -/
  | draws

/-- The part that a command writes. -/
def Instr.writtenPart (i : Instr) : WrittenPart :=
  match i with
  | .nop | .emapGet _ _ _ | .emapSize _ _ | .stGetf _ | .stBuild _ | .hdrBuild | .hdrBuildt | .hdrValid _
  | .kdfDerive _ | .keyRd _ | .gcmDec => .nothing
  | .srst => .block
  | .kclr => .keys
  | .curWrap | .curRd16 _ | .curRd32 _ | .curRdn _ | .curRdx _ | .curSkip _ | .curSeek _ => .cursor
  | .stNew _ | .stSetf _ | .stParse _ _ => .builder
  | .hdrParse | .hdrParset => .header
  | .kdfPmk => .slot .pmk
  | .kdfSek => .slot .sek
  | .kdfSmk => .slot .smk
  | .gkeyLd _ => .cipherKey
  | .gcmEnc => .draws

end Sys2Proof

namespace Sys2Proof.Machine

/-- `t` is `s` with other values in the part of the state; a slot is written only while its valid bit is 0. -/
def WritesPart (part : WrittenPart) (s t : State) : Prop :=
  match part with
  | .nothing => t = s
  | .block => t = s.resetBlock
  | .keys => t = s.clearKeys
  | .cursor => ∃ p l, t = { s with pos := p, limit := l }
  | .builder => ∃ fields w, t = { s with fs := fields, ssel := w }
  | .header => ∃ w, t = s.setHeader w
  | .slot k => s.slotValid k = false ∧ ∃ v, t = s.setSlot k v
  | .cipherKey => ∃ k, t = s.setGkey k
  | .draws => t = s.afterDraw

/-- Each command writes its part of the state and no other. -/
theorem Writes.writesPart {i : Instr} {s t : State} (h : Writes i s t) : WritesPart i.writtenPart s t := by
  cases i with
  | nop | emapGet | emapSize | stGetf | stBuild | hdrBuild | hdrBuildt | hdrValid | kdfDerive | keyRd | gcmDec
  | srst | kclr | gcmEnc | kdfPmk | kdfSek | kdfSmk | gkeyLd => exact h
  | curWrap => exact ⟨_, _, h⟩
  | curRd16 | curRd32 | curRdn | curRdx | curSkip | curSeek => exact ⟨_, _, h.2⟩
  | stNew =>
    obtain ⟨d, -, ht⟩ := h
    exact ⟨_, _, ht⟩
  | stSetf =>
    obtain ⟨-, x, -, ⟨-, ht⟩ | ⟨lf, -, -, ht⟩⟩ := h
    · exact ⟨_, _, ht⟩
    · exact ⟨_, _, ht⟩
  | stParse =>
    obtain ⟨d, values, -, -, -, -, ht⟩ := h
    exact ⟨_, _, ht⟩
  | hdrParse | hdrParset => exact ⟨_, h⟩

/-- What a command that writes `part` leaves as it was, SRST apart: the host's inputs always, and every other part. A
slot is left also by its own derivation, when its valid bit is 1. -/
structure LeavesOthers (part : WrittenPart) (s t : State) : Prop where
  cfg : t.cfg = s.cfg
  ilen : t.ilen = s.ilen
  llen : t.llen = s.llen
  ibuf : t.ibuf = s.ibuf
  lbuf : t.lbuf = s.lbuf
  cursor : part ≠ .cursor → t.pos = s.pos ∧ t.limit = s.limit
  builder : part ≠ .builder → t.fs = s.fs ∧ t.ssel = s.ssel
  header : part ≠ .header → t.hcode = s.hcode ∧ t.hlen = s.hlen ∧ t.hclient = s.hclient ∧ t.hid = s.hid
  valid : part ≠ .keys → ∀ k, s.slotValid k = true ∨ part ≠ .slot k → t.slotValid k = s.slotValid k
  pmk : part ≠ .keys → s.slotValid .pmk = true ∨ part ≠ .slot .pmk → t.pmk = s.pmk
  sek : part ≠ .keys → s.slotValid .sek = true ∨ part ≠ .slot .sek → t.sek = s.sek
  smk : part ≠ .keys → s.slotValid .smk = true ∨ part ≠ .slot .smk → t.smk = s.smk

section
variable {part : WrittenPart} {s t : State}

theorem LeavesOthers.refl (part : WrittenPart) (s : State) : LeavesOthers part s s := by
  constructor <;> simp

/-- A slot that is written had its valid bit 0, so it is not one of those that must stay. -/
theorem leavesOthers_setSlot {k : Slot} (hk : s.slotValid k = false) (v : Bytes) :
    LeavesOthers (.slot k) s (s.setSlot k v) := by
  have hne : ∀ j, s.slotValid j = true ∨ WrittenPart.slot k ≠ .slot j → k ≠ j := by
    rintro j hj rfl
    simp [hk] at hj
  constructor
  case valid => exact fun _ j hj => by simp [(hne j hj).symm]
  case pmk => exact fun _ hj => by simp [hne _ hj]
  case sek => exact fun _ hj => by simp [hne _ hj]
  case smk => exact fun _ hj => by simp [hne _ hj]
  all_goals simp

theorem WritesPart.leavesOthers (h : WritesPart part s t) (hb : part ≠ .block) : LeavesOthers part s t := by
  cases part with
  | nothing =>
    obtain rfl : t = s := h
    exact .refl _ _
  | block => exact absurd rfl hb
  | keys =>
    obtain rfl : t = s.clearKeys := h
    constructor <;> simp
  | cursor =>
    obtain ⟨p, l, rfl⟩ := h
    exact { LeavesOthers.refl .cursor s with cursor := fun hne => absurd rfl hne }
  | builder =>
    obtain ⟨fields, w, rfl⟩ := h
    exact { LeavesOthers.refl .builder s with builder := fun hne => absurd rfl hne }
  | header =>
    obtain ⟨w, rfl⟩ := h
    exact { LeavesOthers.refl .header s with header := fun hne => absurd rfl hne }
  | slot k =>
    obtain ⟨hk, v, rfl⟩ := h
    exact leavesOthers_setSlot hk v
  | cipherKey =>
    obtain ⟨k, rfl⟩ := h
    exact { LeavesOthers.refl .cipherKey s with valid := fun _ j _ => slotValid_setGkey s j k }
  | draws =>
    obtain rfl : t = s.afterDraw := h
    exact { LeavesOthers.refl .draws s with }

theorem writtenPart_eq_block {i : Instr} : i.writtenPart = .block ↔ i = .srst := by
  cases i <;> simp [Instr.writtenPart]

theorem writtenPart_eq_keys {i : Instr} : i.writtenPart = .keys ↔ i = .kclr := by
  cases i <;> simp [Instr.writtenPart]

theorem writtenPart_eq_header {i : Instr} : i.writtenPart = .header ↔ i = .hdrParse ∨ i = .hdrParset := by
  cases i <;> simp [Instr.writtenPart]

theorem writtenPart_eq_builder {i : Instr} :
    i.writtenPart = .builder ↔ (∃ x, i = .stNew x) ∨ (∃ f, i = .stSetf f) ∨ ∃ x a, i = .stParse x a := by
  cases i <;> simp [Instr.writtenPart]

theorem writtenPart_eq_cursor {i : Instr} :
    i.writtenPart = .cursor ↔ i = .curWrap ∨ (∃ o, i = .curRd16 o) ∨ (∃ o, i = .curRd32 o) ∨ (∃ n, i = .curRdn n) ∨
      (∃ n, i = .curRdx n) ∨ (∃ n, i = .curSkip n) ∨ ∃ n, i = .curSeek n := by
  cases i <;> simp [Instr.writtenPart]

/-- The derivation of a slot (R173 to R175). -/
def derivation (k : Slot) : Instr :=
  match k with
  | .pmk => .kdfPmk
  | .sek => .kdfSek
  | .smk => .kdfSmk

theorem writtenPart_eq_slot {i : Instr} {k : Slot} : i.writtenPart = .slot k ↔ i = derivation k := by
  cases k <;> cases i <;> simp [Instr.writtenPart, derivation]

/-- A command but SRST, whether it ends OK or with a fault, leaves every part of the state but its own. -/
theorem exec_leavesOthers {i : Instr} (h : exec i s = .next t) (hi : i ≠ .srst) : LeavesOthers i.writtenPart s t := by
  obtain ⟨c, i0, i1, i2, -, rfl⟩ | ⟨w, out, res, hw, -, rfl⟩ := exec_next_cases h
  · exact { LeavesOthers.refl i.writtenPart s with }
  · exact { hw.writesPart.leavesOthers (fun hb => hi (writtenPart_eq_block.1 hb)) with }

end

/-- Settles O21: the host's inputs are in no part that a command but SRST writes. -/
theorem commandsLeaveHostInputs : Obligations.CommandsLeaveHostInputs := by
  intro i s t h hi
  have hl := exec_leavesOthers h hi
  exact ⟨hl.cfg, hl.ilen, hl.llen, hl.ibuf, hl.lbuf⟩

/-- Settles O22: the commands named are those whose part is the cursor, the builder or the header registers. -/
theorem stateHasItsOwnWriters : Obligations.StateHasItsOwnWriters := by
  intro i s t h hi
  have hl := exec_leavesOthers h hi
  refine ⟨fun hc => hl.cursor ?_, fun hb => hl.builder ?_, fun hh => hl.header ?_⟩
  · rw [Ne, writtenPart_eq_cursor]
    simpa using hc
  · rw [Ne, writtenPart_eq_builder]
    simpa using hb
  · rw [Ne, writtenPart_eq_header]
    simpa using hh

/-- Settles O23: a slot is in the part of its own derivation only, which writes it only while its valid bit is 0. -/
theorem keySlotsAreWriteOnce : Obligations.KeySlotsAreWriteOnce := by
  intro i s t h hsrst hkclr
  have hl := exec_leavesOthers h hsrst
  have hkeys : i.writtenPart ≠ .keys := fun hk => hkclr (writtenPart_eq_keys.1 hk)
  have stays : ∀ k, s.slotValid k = true ∨ i ≠ derivation k → s.slotValid k = true ∨ i.writtenPart ≠ .slot k :=
    fun k => Or.imp_right fun hne hp => hne (writtenPart_eq_slot.1 hp)
  exact ⟨fun hk => ⟨hl.pmk hkeys (stays .pmk hk), hl.valid hkeys .pmk (stays .pmk hk)⟩,
    fun hk => ⟨hl.sek hkeys (stays .sek hk), hl.valid hkeys .sek (stays .sek hk)⟩,
    fun hk => ⟨hl.smk hkeys (stays .smk hk), hl.valid hkeys .smk (stays .smk hk)⟩⟩

/-! ### `ESTICKY` (10_state.md R27) -/

/-- No command's own writes touch `ESTICKY`, SRST's reset of the block apart. -/
theorem WritesPart.esticky {part : WrittenPart} {s t : State} (h : WritesPart part s t) (hb : part ≠ .block) :
    t.esticky = s.esticky := by
  cases part with
  | nothing | keys | draws =>
    obtain rfl : t = _ := h
    rfl
  | block => exact absurd rfl hb
  | cursor | builder =>
    obtain ⟨_, _, rfl⟩ := h
    rfl
  | header | cipherKey =>
    obtain ⟨_, rfl⟩ := h
    rfl
  | slot k =>
    obtain ⟨-, v, rfl⟩ := h
    exact State.setSlot_esticky s k v

/-- A fault sets its own bit of `ESTICKY` and leaves every other (R250). -/
theorem faultEntry_sticky {s : State} {k : Nat} (h : s.esticky.getLsbD k = true) (c : FaultCode) (i0 i1 i2 : Nat) :
    (s.faultEntry c i0 i1 i2).esticky.getLsbD k = true := by
  have hc := c.code_le
  rw [State.faultEntry_esticky, setBit_getLsbD _ _ _ (by omega), h, Bool.true_or]

theorem exec_sticky {i : Instr} {s t : State} {k : Nat} (he : exec i s = .next t) (hi : i ≠ .srst)
    (h : s.esticky.getLsbD k = true) : t.esticky.getLsbD k = true := by
  obtain ⟨c, i0, i1, i2, -, rfl⟩ | ⟨w, out, res, hw, -, rfl⟩ := exec_next_cases he
  · exact faultEntry_sticky h c i0 i1 i2
  · rw [State.okCompletion_esticky, hw.writesPart.esticky fun hb => hi (writtenPart_eq_block.1 hb)]
    exact h

/-- The only register at address 0x14 is `ESTICKY` (R61). -/
theorem regAt_eq_esticky {addr : BitVec 20} (h : regAt addr = some .esticky) : addr = 0x00014#20 := by
  unfold regAt at h
  split at h <;> cases h
  exact BitVec.eq_of_toNat_eq ‹_›

/-- A host write leaves a bit of `ESTICKY` set, unless it is a write to `ESTICKY` with that bit set (R27). -/
theorem writeReg_sticky {s : State} {r : Reg} {v : Word} {k : Nat} (h : s.esticky.getLsbD k = true)
    (hr : r = .esticky → v.getLsbD k = false) : (s.writeReg r v).esticky.getLsbD k = true := by
  by_cases he : r = .esticky
  · subst he
    have hk : k < 32 := BitVec.lt_of_getLsbD h
    show (s.esticky &&& ~~~v).getLsbD k = true
    rw [BitVec.getLsbD_and, BitVec.getLsbD_not, h, hr rfl]
    simpa using hk
  · have hleft : (s.writeReg r v).esticky = s.esticky := by
      cases r with
      | esticky => exact absurd rfl he
      | _ => rfl
    rw [hleft, h]

theorem writeBuffer_esticky (s : State) (b : Buffer) (i : Nat) (v : Byte) :
    (s.writeBuffer b i v).esticky = s.esticky := by
  cases b <;> rfl

/-- Settles O24: a step clears a sticky bit in the three ways that are shut out, and in no other. -/
theorem stickyBitsStay : Obligations.StickyBitsStay := by
  intro s t k hstep hk hno
  obtain ⟨-, rfl⟩ | ⟨a, rest, hp, hact⟩ := step_cases hstep
  · exact hk
  obtain ⟨hreset, hsrst, hclear⟩ := hno a (by rw [hp]; rfl)
  obtain ⟨ha, -⟩ | ⟨addr, r, -, -, rfl⟩ | ⟨addr, b, i, -, -, rfl⟩ | ⟨addr, r, v, rfl, hr, -, rfl⟩ |
    ⟨addr, v, b, i, -, -, rfl⟩ | ⟨w, i, rfl, hi, hexec⟩ | ⟨w, e, -, -, rfl⟩ := hact
  · exact absurd ha hreset
  · exact hk
  · exact hk
  · rw [State.answered_esticky]
    refine writeReg_sticky hk fun he => hclear v ?_
    subst he
    rw [regAt_eq_esticky hr]
  · rw [State.answered_esticky, writeBuffer_esticky]
    exact hk
  · refine exec_sticky hexec ?_ hk
    rintro rfl
    exact hsrst (eq_encode_srst hi ▸ rfl)
  · exact faultEntry_sticky hk .illCmd w.toNat 0 0

end Sys2Proof.Machine

/-! ### Which transactions end in a bus error (20_memory.md R61, R65) -/

namespace Sys2Proof.Machine

open Sys2Proof.Safety

/-- A register stands at every aligned address below 0x50, and at no other (R61). -/
theorem regAt_eq_none {addr : BitVec 20} : regAt addr = none ↔ ¬(addr.toNat < 0x50 ∧ addr.toNat % 4 = 0) := by
  unfold regAt
  split
  case h_21 => simp only [imp_false, true_iff] at *; omega
  all_goals simp only [reduceCtorEq, false_iff]; omega

theorem inBufferWindow_iff {p : Params} {a : Nat} :
    InBufferWindow p a ↔ ∃ b i, a = windowBase b + i ∧ i < windowSize p b := by
  constructor
  · rintro (h | h | h | h)
    · exact ⟨.ibuf, a - 0x10000, by simp only [windowBase, windowSize]; omega⟩
    · exact ⟨.obuf, a - 0x20000, by simp only [windowBase, windowSize]; omega⟩
    · exact ⟨.secret, a - 0x30000, by simp only [windowBase, windowSize]; omega⟩
    · exact ⟨.lbuf, a - 0x30100, by simp only [windowBase, windowSize]; omega⟩
  · rintro ⟨b, i, rfl, hi⟩
    cases b <;> simp only [InBufferWindow, windowBase, windowSize] at hi ⊢ <;> omega

/-- The map gives no buffer for an address that lies in none of the four windows (R61). -/
theorem bufferAt_eq_none {p : Params} {addr : BitVec 20} :
    bufferAt p addr = none ↔ ¬InBufferWindow p addr.toNat := by
  rw [Option.eq_none_iff_forall_not_mem, inBufferWindow_iff]
  simp only [Option.mem_def, Prod.forall, bufferAt_eq_some, not_exists]

/-- Every command and every illegal word completes (R245, R95), so a write to a register is always answered. -/
theorem writeRegister_completes (r : Reg) (v : Word) (s : State) : ∃ t, writeRegister r v s = .next t := by
  by_cases hr : r = .cmd
  · subst hr
    rw [writeRegister_cmd, runCommand]
    split
    · next i _ =>
      obtain ⟨e, he, -⟩ := exec_cases i (s.answered .done)
      exact ⟨_, he⟩
    · exact ⟨_, rfl⟩
  · exact ⟨_, writeRegister_of_ne r v s hr⟩

/-- The port refuses a transaction where the map has nothing of its width at the address, and no other (R65). -/
theorem hostAct_eq_busError {a : HostAction} {s : State} :
    hostAct a s = .refused .busError ↔ IllegalTransaction s.params a := by
  cases a with
  | reset => simp [hostAct, IllegalTransaction]
  | read32 addr =>
    rw [IllegalTransaction, ← regAt_eq_none]
    cases hr : regAt addr <;> simp [hostAct, hr]
  | write32 addr v =>
    rw [IllegalTransaction, ← regAt_eq_none]
    cases hr : regAt addr with
    | none => simp [hostAct, hr]
    | some r =>
      obtain ⟨t, ht⟩ := writeRegister_completes r v s
      simp [hostAct, hr, ht]
  | read8 addr =>
    rw [IllegalTransaction, ← bufferAt_eq_none]
    cases hb : bufferAt s.params addr <;> simp [hostAct, hb]
  | write8 addr v =>
    rw [IllegalTransaction, ← bufferAt_eq_none]
    cases hb : bufferAt s.params addr <;> simp [hostAct, hb]

/-- Settles O12: the step is the port's answer to the action, and taking it from `pending` leaves the parameters, so
the address map stays. -/
theorem illegalTransactionsAreRefused : Obligations.IllegalTransactionsAreRefused := by
  intro s a rest hp
  rw [step_act s a rest hp, hostAct_eq_busError, State.withPending_params]

end Sys2Proof.Machine

/-! ### Each command has one word, and each legal word one command (30_encoding.md R86 to R96) -/

namespace Sys2Proof

/-! #### Selectors and their bits (R88, R90, R91) -/

/-- `A[7:2]`, which format O requires to be zero (R88). -/
@[simp] theorem wordOf_bits_23_18 (o a b c : BitVec 8) : (wordOf o a b c).extractLsb' 18 6 = a.extractLsb' 2 6 := by
  apply BitVec.eq_of_getLsbD_eq
  intro j hj
  simp [wordOf_getLsbD, hj, show ¬ 18 + j < 8 by omega, show ¬ 18 + j < 16 by omega, show 18 + j < 24 by omega,
    show 18 + j - 16 = 2 + j by omega]

/-- `ord` (R88). -/
@[simp] theorem wordOf_bits_17_16 (o a b c : BitVec 8) : (wordOf o a b c).extractLsb' 16 2 = a.extractLsb' 0 2 := by
  apply BitVec.eq_of_getLsbD_eq
  intro j hj
  simp [wordOf_getLsbD, hj, show ¬ 16 + j < 8 by omega, show 16 + j < 24 by omega]

/-- `C[7:2]`, which KEY.RD and GKEY.LD require to be zero (R91). -/
@[simp] theorem wordOf_bits_7_2 (o a b c : BitVec 8) : (wordOf o a b c).extractLsb' 2 6 = c.extractLsb' 2 6 := by
  apply BitVec.eq_of_getLsbD_eq
  intro j hj
  simp [wordOf_getLsbD, hj, show 2 + j < 8 by omega]

/-- `slot` and `src` (R91). -/
@[simp] theorem wordOf_bits_1_0 (o a b c : BitVec 8) : (wordOf o a b c).extractLsb' 0 2 = c.extractLsb' 0 2 := by
  apply BitVec.eq_of_getLsbD_eq
  intro j hj
  simp [wordOf_getLsbD, hj, show j < 8 by omega]

/-- The selector bit of formats S and K (R90, R91). -/
theorem wordOf_bit_0 (o a b c : BitVec 8) : (wordOf o a b c).getLsbD 0 = c.getLsbD 0 := wordOf_getLsbD o a b c 0

/-- `N` is `B` and `C` together (R86). -/
theorem fieldN_eq_zero {w : Word} : fieldN w = 0 ↔ fieldB w = 0 ∧ fieldC w = 0 := by
  constructor
  · intro h
    have hb : fieldB w = (fieldN w).extractLsb' 8 8 := by simp [fieldB, fieldN, BitVec.extractLsb'_extractLsb'_of_le]
    have hc : fieldC w = (fieldN w).extractLsb' 0 8 := by simp [fieldC, fieldN, BitVec.extractLsb'_extractLsb'_of_le]
    exact ⟨by rw [hb, h]; rfl, by rw [hc, h]; rfl⟩
  · rintro ⟨hb, hc⟩
    rw [← wordOf_fields w, fieldN_wordOf, hb, hc]
    rfl

/-- The mask of a one-bit selector (R94). -/
theorem and_0xFE_eq_zero {x : BitVec 8} : x &&& 0xFE#8 = 0 ↔ x.extractLsb' 1 7 = 0 := by
  revert x; decide

theorem readOrderOf_eq_ok {x : BitVec 8} (h : x.extractLsb' 2 6 = 0) {o : ReadOrder} :
    readOrderOf (x.extractLsb' 0 2) = .ok o ↔ readOrderBits o = x := by
  revert x; cases o <;> decide

theorem slotOf_eq_ok {x : BitVec 8} (h : x.extractLsb' 2 6 = 0) {k : Slot} :
    slotOf (x.extractLsb' 0 2) = .ok k ↔ slotBits k = x := by
  revert x; cases k <;> decide

theorem keySrcOf_eq_ok {x : BitVec 8} (h : x.extractLsb' 2 6 = 0) {src : KeySrc} :
    keySrcOf (x.extractLsb' 0 2) = .ok src ↔ keySrcBits src = x := by
  revert x; cases src <;> decide

theorem actorBits_actorOf {x : BitVec 8} (h : x.extractLsb' 1 7 = 0) : actorBits (actorOf (x.getLsbD 0)) = x := by
  revert x; decide

/-- The low byte of the commands of format S that have no `actor` (R90). -/
theorem eq_zero_of_bits {x : BitVec 8} (h : x.extractLsb' 1 7 = 0) (h0 : x.getLsbD 0 = false) : x = 0 := by
  revert x; decide

theorem hdrOrderBits_hdrOrderOf {x : BitVec 8} (h : x.extractLsb' 1 7 = 0) :
    hdrOrderBits (hdrOrderOf (x.getLsbD 0)) = x := by
  revert x; decide

theorem exists_readOrderBits {x : BitVec 8} (h : x &&& 0xFC#8 = 0) (hord : x.extractLsb' 0 2 ≠ 3) :
    ∃ ord, readOrderBits ord = x := by
  obtain rfl | rfl | rfl : x = 0 ∨ x = 1 ∨ x = 2 := by revert x; decide
  exacts [⟨.persistent, rfl⟩, ⟨.big, rfl⟩, ⟨.little, rfl⟩]

theorem exists_slotBits {x : BitVec 8} (h : x &&& 0xFC#8 = 0) (hslot : x.extractLsb' 0 2 ≠ 0) :
    ∃ k, slotBits k = x := by
  obtain rfl | rfl | rfl : x = 1 ∨ x = 2 ∨ x = 3 := by revert x; decide
  exacts [⟨.pmk, rfl⟩, ⟨.sek, rfl⟩, ⟨.smk, rfl⟩]

theorem exists_keySrcBits {x : BitVec 8} (h : x &&& 0xFC#8 = 0) (hsrc : x.getLsbD 1 = false) :
    ∃ src, keySrcBits src = x := by
  obtain rfl | rfl : x = 0 ∨ x = 1 := by revert x; decide
  exacts [⟨.ibuf, rfl⟩, ⟨.sek, rfl⟩]

theorem exists_actorBits {x : BitVec 8} (h : x &&& 0xFE#8 = 0) : ∃ actor, actorBits actor = x :=
  ⟨_, actorBits_actorOf (and_0xFE_eq_zero.1 h)⟩

theorem exists_hdrOrderBits {x : BitVec 8} (h : x &&& 0xFE#8 = 0) : ∃ order, hdrOrderBits order = x :=
  ⟨_, hdrOrderBits_hdrOrderOf (and_0xFE_eq_zero.1 h)⟩

/-! #### What each format's decoder accepts (R87 to R91) -/

theorem except_map_eq_ok {ε α β : Type} {x : Except ε α} {f : α → β} {y : β} :
    x.map f = .ok y ↔ ∃ z, x = .ok z ∧ f z = y := by
  cases x <;> simp [Except.map]

section
variable {o a b c : BitVec 8} {j : Instr}

theorem decodeZ_wordOf_eq_ok {i : Instr} :
    decodeZ (wordOf o a b c) i = .ok j ↔ (a = 0 ∧ b = 0 ∧ c = 0) ∧ i = j := by
  rw [decodeZ_eq_ok, fieldN_eq_zero, fieldA_wordOf, fieldB_wordOf, fieldC_wordOf, ← and_assoc]

theorem decodeO_wordOf_eq_ok {mk : ReadOrder → Instr} :
    decodeO (wordOf o a b c) mk = .ok j ↔ ∃ ord, (readOrderBits ord = a ∧ b = 0 ∧ c = 0) ∧ mk ord = j := by
  rw [decodeO, requireZero_eq_ok, except_map_eq_ok, Bool.and_eq_true, decide_eq_true_eq, decide_eq_true_eq,
    wordOf_bits_23_18, wordOf_bits_17_16, fieldN_eq_zero, fieldB_wordOf, fieldC_wordOf]
  constructor
  · rintro ⟨⟨ha, hbc⟩, ord, hord, hj⟩
    exact ⟨ord, ⟨(readOrderOf_eq_ok ha).1 hord, hbc⟩, hj⟩
  · rintro ⟨ord, ⟨rfl, hbc⟩, hj⟩
    have ha : (readOrderBits ord).extractLsb' 2 6 = 0 := by cases ord <;> rfl
    exact ⟨⟨ha, hbc⟩, ord, (readOrderOf_eq_ok ha).2 rfl, hj⟩

/-- The immediate of format N is `B` and `C` together (R86, R89). -/
theorem wordN_append (o b c : BitVec 8) : wordN o (b ++ c) = wordOf o 0 b c := by
  rw [wordN_eq, BitVec.extractLsb'_append_eq_left, BitVec.extractLsb'_append_eq_right]

theorem decodeN_wordOf_eq_ok {mk : BitVec 16 → Instr} :
    decodeN (wordOf o a b c) mk = .ok j ↔ a = 0 ∧ mk (b ++ c) = j := by
  rw [decodeN_eq_ok, fieldA_wordOf, fieldN_wordOf]

theorem decodeS_wordOf_eq_ok {zero : Bool} {i : Instr} :
    decodeS (wordOf o a b c) zero i = .ok j ↔ (zero = true ∧ c.extractLsb' 1 7 = 0) ∧ i = j := by
  rw [decodeS_eq_ok, wordOf_bits_7_1]

theorem decodeK_wordOf_eq_ok {α : Type} {sel : Except DecodeError α} {mk : α → Instr} :
    decodeK (wordOf o a b c) sel mk = .ok j ↔
      (a = 0 ∧ b = 0 ∧ c.extractLsb' 2 6 = 0) ∧ ∃ x, sel = .ok x ∧ mk x = j := by
  simp [decodeK, requireZero_eq_ok, except_map_eq_ok, and_assoc]

end

/-- Settles O1: each format's decoder accepts what the encoder writes in that format. -/
theorem decodeOfEncodeIsTheCommand : Obligations.DecodeOfEncodeIsTheCommand := by
  intro i
  cases i with
  | nop | srst | kclr | curWrap | hdrBuild | hdrBuildt | hdrParse | hdrParset | kdfPmk | kdfSek | kdfSmk | gcmEnc
  | gcmDec => exact decodeZ_wordOf_eq_ok.2 ⟨⟨rfl, rfl, rfl⟩, rfl⟩
  | curRd16 ord | curRd32 ord =>
    simp only [decode, encode, opcOf_wordOf]
    exact decodeO_wordOf_eq_ok.2 ⟨ord, ⟨rfl, rfl, rfl⟩, rfl⟩
  | curRdn n | curRdx n | curSkip n | curSeek n | kdfDerive n =>
    simp only [decode, encode, opcOf_wordN]
    exact decodeN_eq_ok.2 ⟨fieldA_wordN _ n, congrArg _ (fieldN_wordN _ n)⟩
  | emapGet t f actor | emapSize t actor | stParse t actor | stBuild actor =>
    cases actor <;> simp [decode, encode, decodeS_eq_ok, actorBits, actorOf]
  | stNew | stSetf | stGetf => simp [decode, encode, decodeS_eq_ok]
  | hdrValid order => cases order <;> rfl
  | keyRd slot => cases slot <;> rfl
  | gkeyLd src => cases src <;> rfl

/-- Settles O2: the fields that the word's format leaves open are the encoder's bits of the command's operands, and the
others are zero. -/
theorem encodeOfDecodeIsTheWord : Obligations.EncodeOfDecodeIsTheWord := by
  intro w i h
  rw [← wordOf_fields w] at h ⊢
  generalize opcOf w = o, fieldA w = a, fieldB w = b, fieldC w = c at h ⊢
  simp only [decode, opcOf_wordOf, fieldA_wordOf, fieldB_wordOf, wordOf_bit_0, wordOf_bits_7_1, wordOf_bits_1_0] at h
  split at h
  -- Format Z.
  case h_1 | h_2 | h_3 | h_4 | h_18 | h_19 | h_20 | h_21 | h_24 | h_25 | h_26 | h_29 | h_30 =>
    obtain ⟨⟨rfl, rfl, rfl⟩, rfl⟩ := decodeZ_wordOf_eq_ok.1 h
    rfl
  -- Format O.
  case h_5 | h_6 =>
    obtain ⟨ord, ⟨rfl, rfl, rfl⟩, rfl⟩ := decodeO_wordOf_eq_ok.1 h
    rfl
  -- Format N.
  case h_7 | h_8 | h_9 | h_10 | h_23 =>
    obtain ⟨rfl, rfl⟩ := decodeN_wordOf_eq_ok.1 h
    exact wordN_append _ b c
  -- Format S with `actor`.
  case h_11 | h_12 | h_16 | h_17 =>
    obtain ⟨⟨hzero, hc⟩, rfl⟩ := decodeS_wordOf_eq_ok.1 h
    simp only [Bool.and_eq_true, decide_eq_true_eq] at hzero
    simp only [encode, actorBits_actorOf hc, hzero, BitVec.ofNat_eq_ofNat]
  -- Format S without `actor`.
  case h_13 | h_14 | h_15 =>
    obtain ⟨⟨hzero, hc⟩, rfl⟩ := decodeS_wordOf_eq_ok.1 h
    simp only [Bool.and_eq_true, decide_eq_true_eq, Bool.not_eq_true'] at hzero
    obtain ⟨rfl, hbit⟩ := hzero
    rw [eq_zero_of_bits hc hbit]
    rfl
  -- HDR.VALID.
  case h_22 =>
    obtain ⟨hzero, hi⟩ := requireZero_eq_ok.1 h
    simp only [Bool.and_eq_true, decide_eq_true_eq] at hzero
    obtain ⟨⟨rfl, rfl⟩, hc⟩ := hzero
    obtain rfl := Except.ok.inj hi
    exact congrArg (wordOf 0x34 0 0) (hdrOrderBits_hdrOrderOf hc)
  -- KEY.RD.
  case h_27 =>
    obtain ⟨⟨rfl, rfl, hc⟩, k, hk, rfl⟩ := decodeK_wordOf_eq_ok.1 h
    exact congrArg (wordOf 0x44 0 0) ((slotOf_eq_ok hc).1 hk)
  -- GKEY.LD.
  case h_28 =>
    obtain ⟨⟨rfl, rfl, hc⟩, src, hsrc, rfl⟩ := decodeK_wordOf_eq_ok.1 h
    exact congrArg (wordOf 0x50 0 0) ((keySrcOf_eq_ok hc).1 hsrc)
  -- Unknown opcode.
  case h_31 => cases h

/-! #### The legal words are the words of the commands (R94, R95) -/

/-- Each command's word satisfies its own row (R94). -/
theorem ownRow (i : Instr) : Laws.OwnRow.Statement i := by
  cases i with
  | nop => exact Laws.OwnRow.nop
  | srst => exact Laws.OwnRow.srst
  | kclr => exact Laws.OwnRow.kclr
  | curWrap => exact Laws.OwnRow.curWrap
  | curRd16 ord => exact Laws.OwnRow.curRd16 ord
  | curRd32 ord => exact Laws.OwnRow.curRd32 ord
  | curRdn n => exact Laws.OwnRow.curRdn n
  | curRdx n => exact Laws.OwnRow.curRdx n
  | curSkip n => exact Laws.OwnRow.curSkip n
  | curSeek pos => exact Laws.OwnRow.curSeek pos
  | emapGet t f actor => exact Laws.OwnRow.emapGet t f actor
  | emapSize t actor => exact Laws.OwnRow.emapSize t actor
  | stNew t => exact Laws.OwnRow.stNew t
  | stSetf f => exact Laws.OwnRow.stSetf f
  | stGetf f => exact Laws.OwnRow.stGetf f
  | stBuild actor => exact Laws.OwnRow.stBuild actor
  | stParse t actor => exact Laws.OwnRow.stParse t actor
  | hdrBuild => exact Laws.OwnRow.hdrBuild
  | hdrBuildt => exact Laws.OwnRow.hdrBuildt
  | hdrParse => exact Laws.OwnRow.hdrParse
  | hdrParset => exact Laws.OwnRow.hdrParset
  | hdrValid order => exact Laws.OwnRow.hdrValid order
  | kdfDerive n => exact Laws.OwnRow.kdfDerive n
  | kdfPmk => exact Laws.OwnRow.kdfPmk
  | kdfSek => exact Laws.OwnRow.kdfSek
  | kdfSmk => exact Laws.OwnRow.kdfSmk
  | keyRd slot => exact Laws.OwnRow.keyRd slot
  | gkeyLd src => exact Laws.OwnRow.gkeyLd src
  | gcmEnc => exact Laws.OwnRow.gcmEnc
  | gcmDec => exact Laws.OwnRow.gcmDec

theorem selectsRow_encode (i : Instr) : selectsRow (encode i) = true := by
  obtain ⟨r, hr, -, hsel⟩ := ownRow i
  exact List.any_eq_true.2 ⟨r, hr, hsel⟩

theorem reservedSelector_wordOf (o a b c : BitVec 8) :
    reservedSelector (wordOf o a b c) =
      ((decide (o = 0x11) || decide (o = 0x12)) && decide (a.extractLsb' 0 2 = 3) ||
        decide (o = 0x44) && decide (c.extractLsb' 0 2 = 0) || decide (o = 0x50) && c.getLsbD 1) := by
  have hopc : (wordOf o a b c).extractLsb' 24 8 = o := opcOf_wordOf o a b c
  have hbit : (wordOf o a b c).getLsbD 1 = c.getLsbD 1 := wordOf_getLsbD o a b c 1
  rw [reservedSelector, hopc, hbit, wordOf_bits_17_16, wordOf_bits_1_0]

theorem reservedSelector_encode (i : Instr) : reservedSelector (encode i) = false := by
  cases i with
  | curRd16 ord | curRd32 ord => cases ord <;> rfl
  | keyRd slot => cases slot <;> rfl
  | gkeyLd src => cases src <;> rfl
  | curRdn | curRdx | curSkip | curSeek | kdfDerive => simp [encode, wordN_eq, reservedSelector_wordOf]
  | _ => simp [encode, reservedSelector_wordOf]

theorem legalWord_encode (i : Instr) : legalWord (encode i) = true := by
  simp [legalWord, selectsRow_encode, reservedSelector_encode]

/-- The mask of a field with no bit open (R94). -/
theorem and_0xFF (x : BitVec 8) : x &&& 0xFF#8 = x := BitVec.and_allOnes

/-- A row of format Z leaves no bit of the word open (R87). -/
theorem mask_of_mem_opcodeRowsZ : ∀ r ∈ opcodeRowsZ, r.mask = BitVec.allOnes 32 := by decide

theorem exists_encode_of_opcodeRowsZ {r : OpcodeRow} {w : Word} (hr : r ∈ opcodeRowsZ) (h : r.selects w = true) :
    ∃ i, encode i = w := by
  rw [OpcodeRow.selects, decide_eq_true_eq, mask_of_mem_opcodeRowsZ r hr, BitVec.and_allOnes] at h
  subst h
  simp only [opcodeRowsZ, List.mem_cons, List.not_mem_nil, or_false] at hr
  obtain rfl | rfl | rfl | rfl | rfl | rfl | rfl | rfl | rfl | rfl | rfl | rfl | rfl := hr
  exacts [⟨.nop, rfl⟩, ⟨.srst, rfl⟩, ⟨.kclr, rfl⟩, ⟨.curWrap, rfl⟩, ⟨.hdrBuild, rfl⟩, ⟨.hdrBuildt, rfl⟩,
    ⟨.hdrParse, rfl⟩, ⟨.hdrParset, rfl⟩, ⟨.kdfPmk, rfl⟩, ⟨.kdfSek, rfl⟩, ⟨.kdfSmk, rfl⟩, ⟨.gcmEnc, rfl⟩,
    ⟨.gcmDec, rfl⟩]

section
variable {r : OpcodeRow} {o a b c : BitVec 8}

theorem exists_encode_of_opcodeRowsO (hr : r ∈ opcodeRowsO) (h : r.selects (wordOf o a b c) = true)
    (hsel : reservedSelector (wordOf o a b c) = false) : ∃ i, encode i = wordOf o a b c := by
  rw [selects_wordOf] at h
  rw [reservedSelector_wordOf] at hsel
  simp only [opcodeRowsO, List.mem_cons, List.not_mem_nil, or_false] at hr
  obtain rfl | rfl := hr
  all_goals
    simp only [opcOf, fieldA, fieldB, fieldC, BitVec.reduceExtractLsb', BitVec.ofNat_eq_ofNat, and_0xFF] at h
    obtain ⟨rfl, ha, rfl, rfl⟩ := h
    obtain ⟨ord, rfl⟩ := exists_readOrderBits ha (by simpa using hsel)
  exacts [⟨.curRd16 ord, rfl⟩, ⟨.curRd32 ord, rfl⟩]

theorem exists_encode_of_opcodeRowsN (hr : r ∈ opcodeRowsN) (h : r.selects (wordOf o a b c) = true) :
    ∃ i, encode i = wordOf o a b c := by
  rw [selects_wordOf] at h
  simp only [opcodeRowsN, List.mem_cons, List.not_mem_nil, or_false] at hr
  obtain rfl | rfl | rfl | rfl | rfl := hr
  all_goals
    simp only [opcOf, fieldA, fieldB, fieldC, BitVec.reduceExtractLsb', BitVec.ofNat_eq_ofNat, and_0xFF,
      BitVec.and_zero, and_true] at h
    obtain ⟨rfl, rfl⟩ := h
  exacts [⟨.curRdn (b ++ c), wordN_append _ b c⟩, ⟨.curRdx (b ++ c), wordN_append _ b c⟩,
    ⟨.curSkip (b ++ c), wordN_append _ b c⟩, ⟨.curSeek (b ++ c), wordN_append _ b c⟩,
    ⟨.kdfDerive (b ++ c), wordN_append _ b c⟩]

theorem exists_encode_of_opcodeRowsS (hr : r ∈ opcodeRowsS) (h : r.selects (wordOf o a b c) = true) :
    ∃ i, encode i = wordOf o a b c := by
  rw [selects_wordOf] at h
  simp only [opcodeRowsS, List.mem_cons, List.not_mem_nil, or_false] at hr
  obtain rfl | rfl | rfl | rfl | rfl | rfl | rfl := hr
  all_goals
    simp only [opcOf, fieldA, fieldB, fieldC, BitVec.reduceExtractLsb', BitVec.ofNat_eq_ofNat, and_0xFF,
      BitVec.and_zero, true_and] at h
  · obtain ⟨rfl, hc⟩ := h
    obtain ⟨actor, rfl⟩ := exists_actorBits hc
    exact ⟨.emapGet a b actor, rfl⟩
  · obtain ⟨rfl, rfl, hc⟩ := h
    obtain ⟨actor, rfl⟩ := exists_actorBits hc
    exact ⟨.emapSize a actor, rfl⟩
  · obtain ⟨rfl, rfl, rfl⟩ := h
    exact ⟨.stNew a, rfl⟩
  · obtain ⟨rfl, rfl, rfl⟩ := h
    exact ⟨.stSetf b, rfl⟩
  · obtain ⟨rfl, rfl, rfl⟩ := h
    exact ⟨.stGetf b, rfl⟩
  · obtain ⟨rfl, rfl, rfl, hc⟩ := h
    obtain ⟨actor, rfl⟩ := exists_actorBits hc
    exact ⟨.stBuild actor, rfl⟩
  · obtain ⟨rfl, rfl, hc⟩ := h
    obtain ⟨actor, rfl⟩ := exists_actorBits hc
    exact ⟨.stParse a actor, rfl⟩

theorem exists_encode_of_opcodeRowsK (hr : r ∈ opcodeRowsK) (h : r.selects (wordOf o a b c) = true)
    (hsel : reservedSelector (wordOf o a b c) = false) : ∃ i, encode i = wordOf o a b c := by
  rw [selects_wordOf] at h
  rw [reservedSelector_wordOf] at hsel
  simp only [opcodeRowsK, List.mem_cons, List.not_mem_nil, or_false] at hr
  obtain rfl | rfl | rfl := hr
  all_goals
    simp only [opcOf, fieldA, fieldB, fieldC, BitVec.reduceExtractLsb', BitVec.ofNat_eq_ofNat, and_0xFF] at h
    obtain ⟨rfl, rfl, rfl, hc⟩ := h
  · obtain ⟨order, rfl⟩ := exists_hdrOrderBits hc
    exact ⟨.hdrValid order, rfl⟩
  · obtain ⟨k, rfl⟩ := exists_slotBits hc (by simpa using hsel)
    exact ⟨.keyRd k, rfl⟩
  · obtain ⟨src, rfl⟩ := exists_keySrcBits hc (by simpa using hsel)
    exact ⟨.gkeyLd src, rfl⟩

end

/-- Every legal word is the word of a command. -/
theorem exists_encode_of_legalWord {w : Word} (h : legalWord w = true) : ∃ i, encode i = w := by
  obtain ⟨hrow, hsel⟩ : selectsRow w = true ∧ reservedSelector w = false := by simpa [legalWord] using h
  obtain ⟨r, hr, hw⟩ := List.any_eq_true.1 hrow
  rw [← wordOf_fields w] at hw hsel ⊢
  simp only [opcodeTable, List.mem_append, or_assoc] at hr
  obtain hZ | hO | hN | hS | hK := hr
  · exact exists_encode_of_opcodeRowsZ hZ hw
  · exact exists_encode_of_opcodeRowsO hO hw hsel
  · exact exists_encode_of_opcodeRowsN hN hw
  · exact exists_encode_of_opcodeRowsS hS hw
  · exact exists_encode_of_opcodeRowsK hK hw hsel

theorem legalWord_iff_exists_encode {w : Word} : legalWord w = true ↔ ∃ i, encode i = w :=
  ⟨exists_encode_of_legalWord, by rintro ⟨i, rfl⟩; exact legalWord_encode i⟩

/-- Settles O3: the words that decode are the words of the commands, by O1 and O2, and so are the legal ones. -/
theorem decodeAcceptsExactlyLegalWords : Obligations.DecodeAcceptsExactlyLegalWords := by
  intro w
  rw [legalWord_iff_exists_encode]
  constructor
  · rintro ⟨i, hi⟩
    exact ⟨i, encodeOfDecodeIsTheWord w i hi⟩
  · rintro ⟨i, rfl⟩
    exact ⟨i, decodeOfEncodeIsTheCommand i⟩

/-- Every row fixes all of `OPC` (R94). -/
theorem opcOf_mask_of_mem_opcodeTable : ∀ r ∈ opcodeTable, opcOf r.mask = 0xFF#8 := by decide

/-- A word that satisfies a row carries the row's opcode. -/
theorem opcOf_eq_of_selects {r : OpcodeRow} {w : Word} (hr : r ∈ opcodeTable) (h : r.selects w = true) :
    opcOf w = opcOf r.matchBits := by
  rw [← wordOf_fields w, selects_wordOf, opcOf_mask_of_mem_opcodeTable r hr, and_0xFF] at h
  exact h.1

theorem opcodes_nodup : (opcodeTable.map fun r => opcOf r.matchBits).Nodup := by decide

/-- Settles O4: two rows that a word satisfies have its opcode, and no two rows of the table have one opcode. -/
theorem opcodeRowsAreDisjoint : Obligations.OpcodeRowsAreDisjoint := by
  intro w r r' hr hr' h h'
  have hopc : opcOf r.matchBits = opcOf r'.matchBits :=
    (opcOf_eq_of_selects hr h).symm.trans (opcOf_eq_of_selects hr' h')
  exact List.inj_on_of_nodup_map opcodes_nodup hr hr' hopc

/-- Settles O5: each legal word is the encoder's word of its command; the opcode 0xFF is in no row. -/
theorem specWordsDecode : Obligations.SpecWordsDecode :=
  ⟨decodeOfEncodeIsTheCommand .nop, rfl, decodeOfEncodeIsTheCommand (.curRd32 .little),
    decodeOfEncodeIsTheCommand (.curRdn 20), decodeOfEncodeIsTheCommand (.emapGet 2 1 .firmware),
    decodeOfEncodeIsTheCommand (.stParse 2 .service), decodeOfEncodeIsTheCommand (.keyRd .smk)⟩

/-- An illegal word is one that the decoder rejects. -/
theorem exists_decode_error_of_not_legalWord {w : Word} (h : legalWord w = false) : ∃ e, decode w = .error e := by
  cases hd : decode w with
  | error e => exact ⟨e, rfl⟩
  | ok i =>
    have hlegal : legalWord w = true := (decodeAcceptsExactlyLegalWords w).1 ⟨i, hd⟩
    rw [h] at hlegal
    exact absurd hlegal Bool.false_ne_true

end Sys2Proof

namespace Sys2Proof.Machine

/-- Settles O7: the decoder rejects the word, so the step is the fault `E_ILLCMD`. -/
theorem illegalWordFaults : Obligations.IllegalWordFaults := by
  intro s rest w hp hw
  obtain ⟨e, he⟩ := exists_decode_error_of_not_legalWord hw
  rw [step_illegal hp he, State.faultEntry, BitVec.ofNat_toNat, BitVec.setWidth_eq]
  rfl

end Sys2Proof.Machine

/-! ### What the cursor commands read and where they move (40_cursor.md R105, R106) -/

namespace Sys2Proof

/-- Format N is the opcode in its place or the immediate (R89). -/
theorem wordN_eq_or (o : BitVec 8) (n : BitVec 16) : wordN o n = (o ++ 0#24) ||| n.zeroExtend 32 := by
  apply BitVec.eq_of_getLsbD_eq
  intro j hj
  simp only [wordN, BitVec.getLsbD_append, BitVec.getLsbD_or, BitVec.getLsbD_setWidth, BitVec.getLsbD_zero]
  by_cases hn : j < 16
  · simp [hn, hj, show j < 24 by omega]
  · have hzero : n.getLsbD j = false := n.getLsbD_of_ge j (Nat.not_lt.1 hn)
    by_cases hz : j < 24
    · simp [hn, hz, hzero, show j - 16 < 8 by omega]
    · simp [hn, hz, hzero, show ¬ j - 16 < 8 by omega, show j - 16 - 8 = j - 24 by omega]

end Sys2Proof

namespace Sys2Proof.Machine

/-- Moving the cursor forward is addition on the register, as wide as it is. -/
theorem State.setPos_add (s : State) (k : Nat) :
    s.setPos (s.pos.toNat + k) = { s with pos := s.pos + BitVec.ofNat 32 k } := by
  rw [State.setPos, BitVec.ofNat_add, BitVec.ofNat_toNat, BitVec.setWidth_eq]

/-- The same with a command's immediate as the distance. -/
theorem State.setPos_add_immediate (s : State) (n : BitVec 16) :
    s.setPos (s.pos.toNat + n.toNat) = { s with pos := s.pos + n.zeroExtend 32 } := by
  rw [State.setPos_add, BitVec.ofNat_toNat]

theorem State.setPos_immediate (s : State) (n : BitVec 16) : s.setPos n.toNat = { s with pos := n.zeroExtend 32 } := by
  rw [State.setPos, BitVec.ofNat_toNat]

theorem State.order_eq_big {s : State} {o : ReadOrder} (h : o = .big ∨ (o = .persistent ∧ s.cfg.getLsbD 8 = false)) :
    s.order o = .big := by
  obtain rfl | ⟨rfl, hcurle⟩ := h
  · rfl
  · exact if_neg (ne_true_of_eq_false hcurle)

theorem State.order_eq_little {s : State} {o : ReadOrder}
    (h : o = .little ∨ (o = .persistent ∧ s.cfg.getLsbD 8 = true)) : s.order o = .little := by
  obtain rfl | ⟨rfl, hcurle⟩ := h
  · rfl
  · exact if_pos hcurle

/-- The byte `k` places after the cursor, as an integer. -/
def State.byteAtCursor (s : State) (k : Nat) : Nat := (s.ibuf.read (s.pos.toNat + k)).toNat

theorem readInt_big_atCursor_two (s : State) :
    readInt .big (s.atCursor 2) = s.byteAtCursor 0 * 256 + s.byteAtCursor 1 := by
  simp [readInt, State.atCursor, State.byteAtCursor, Memory.readBytes_succ, intBE]

theorem readInt_little_atCursor_two (s : State) :
    readInt .little (s.atCursor 2) = s.byteAtCursor 1 * 256 + s.byteAtCursor 0 := by
  simp [readInt, intLE, State.atCursor, State.byteAtCursor, Memory.readBytes_succ, intBE]

/-- Four bytes as an integer, the first the most significant (R11). -/
theorem intBE_four (a b c d : Byte) :
    intBE [a, b, c, d] = a.toNat * 2 ^ 24 + b.toNat * 2 ^ 16 + c.toNat * 2 ^ 8 + d.toNat := by
  simp only [intBE, List.foldl_cons, List.foldl_nil]
  omega

theorem atCursor_four (s : State) :
    s.atCursor 4 = [s.ibuf.read (s.pos.toNat + 0), s.ibuf.read (s.pos.toNat + 1), s.ibuf.read (s.pos.toNat + 2),
      s.ibuf.read (s.pos.toNat + 3)] := rfl

theorem readInt_big_atCursor_four (s : State) :
    readInt .big (s.atCursor 4) = s.byteAtCursor 0 * 2 ^ 24 + s.byteAtCursor 1 * 2 ^ 16 + s.byteAtCursor 2 * 2 ^ 8 +
      s.byteAtCursor 3 := by
  simp only [atCursor_four, readInt, intBE_four, State.byteAtCursor]

theorem readInt_little_atCursor_four (s : State) :
    readInt .little (s.atCursor 4) = s.byteAtCursor 3 * 2 ^ 24 + s.byteAtCursor 2 * 2 ^ 16 + s.byteAtCursor 1 * 2 ^ 8 +
      s.byteAtCursor 0 := by
  simp only [atCursor_four, readInt, intLE, List.reverse_cons, List.reverse_nil, List.nil_append, List.cons_append,
    intBE_four, State.byteAtCursor]

end Sys2Proof.Machine

/-! ### How the cursor commands end (40_cursor.md R107 to R113) -/

namespace Sys2Proof.Safety

open Sys2Proof.Machine

section Endings

variable {i : Instr} {s : State}

/-- A scalar read past `LIMIT` (R108, R109). -/
theorem endsWithFault_readScalar {o : ReadOrder} {k : Nat} (he : exec i s = finish s (readScalar s o k))
    (h : s.remaining < k) : EndsWithFault i s 1 s.remaining k 0 :=
  endsWithFault_of (c := .underrun) (he.trans (congrArg (finish s) (if_pos h)))

/-- A scalar read inside the input, from the selected order and the value the bytes have in it. -/
theorem endsOk_readScalar {o : ReadOrder} {k v : Nat} {order : ByteOrder}
    (he : exec i s = finish s (readScalar s o k)) (h : k ≤ s.remaining) (ho : s.order o = order)
    (hv : readInt order (s.atCursor k) = v) :
    EndsOk i s { s with pos := s.pos + BitVec.ofNat 32 k } (BitVec.ofNat 32 v) := by
  subst ho hv
  apply endsOk_of
  rw [he, readScalar, if_neg (by omega), State.setPos_add]

/-- A copy longer than OBUF (R110, R111). -/
theorem endsWithFault_readOut {n : Nat} (he : exec i s = finish s (readOut s n)) (h : s.params.obufBytes < n) :
    EndsWithFault i s 16 n s.params.obufBytes 0 :=
  endsWithFault_of (c := .capacity) (he.trans (congrArg (finish s) (if_pos h)))

/-- A copy that OBUF can hold. -/
theorem endsOkWithOutput_readOut {n : BitVec 16} (he : exec i s = finish s (readOut s n.toNat))
    (h : n.toNat ≤ s.params.obufBytes) :
    EndsOkWithOutput i s { s with pos := s.pos + n.zeroExtend 32 } (s.ibuf.readBytes s.pos.toNat n.toNat) := by
  apply endsOkWithOutput_of
  rw [he, readOut, if_neg (by omega), State.setPos_add_immediate, State.atCursor]

/-- A move beyond `LIMIT` (R112, R113). -/
theorem endsWithFault_moveTo {target : Nat} (he : exec i s = finish s (moveTo s target))
    (h : s.limit.toNat < target) : EndsWithFault i s 3 target s.limit.toNat 0 :=
  endsWithFault_of (c := .invPos) (he.trans (congrArg (finish s) (if_pos h)))

/-- A move up to `LIMIT`. -/
theorem endsOk_moveTo {target : Nat} (he : exec i s = finish s (moveTo s target)) (h : target ≤ s.limit.toNat) :
    EndsOk i s (s.setPos target) 0 :=
  endsOk_of (he.trans (congrArg (finish s) (if_neg (Nat.not_lt.2 h))))

end Endings

/-! The meanings of CUR.RDN and CUR.RDX, one equation for each outcome of their tests on what remains. -/

section Copies

variable {s : State} {n : BitVec 16}

theorem exec_curRdn_short (h : s.remaining < n.toNat) :
    exec (.curRdn n) s = finish s (.raise .underrun s.remaining n.toNat 0) :=
  congrArg (finish s) (if_pos h)

theorem exec_curRdn_enough (h : n.toNat ≤ s.remaining) : exec (.curRdn n) s = finish s (readOut s n.toNat) :=
  congrArg (finish s) (if_neg (Nat.not_lt.2 h))

theorem exec_curRdx_short (h : s.remaining < n.toNat) :
    exec (.curRdx n) s = finish s (.raise .underrun s.remaining n.toNat 0) :=
  congrArg (finish s) (if_pos h)

theorem exec_curRdx_long (h : n.toNat < s.remaining) :
    exec (.curRdx n) s = finish s (.raise .lenMismatch s.remaining n.toNat 0) :=
  congrArg (finish s) ((if_neg (Nat.lt_asymm h)).trans (if_pos (Nat.ne_of_gt h)))

theorem exec_curRdx_exact (h : n.toNat = s.remaining) : exec (.curRdx n) s = finish s (readOut s n.toNat) :=
  congrArg (finish s) ((if_neg (by omega)).trans (if_neg (not_not.2 h.symm)))

end Copies

/-- Settles O30: the read of a two-byte scalar, past `LIMIT` or with the value of its bytes in the selected order. -/
theorem curRd16ReadsTwoBytes : Obligations.CurRd16ReadsTwoBytes := by
  refine ⟨rfl, rfl, rfl, fun s o => ⟨?underrun, ?big, ?little⟩⟩
  case underrun => exact endsWithFault_readScalar rfl
  case big =>
    intro hk ho
    exact endsOk_readScalar rfl hk (State.order_eq_big ho) (readInt_big_atCursor_two s)
  case little =>
    intro hk ho
    exact endsOk_readScalar rfl hk (State.order_eq_little ho) (readInt_little_atCursor_two s)

/-- Settles O31: as O30, for four bytes. -/
theorem curRd32ReadsFourBytes : Obligations.CurRd32ReadsFourBytes := by
  refine ⟨rfl, rfl, rfl, fun s o => ⟨?underrun, ?big, ?little⟩⟩
  case underrun => exact endsWithFault_readScalar rfl
  case big =>
    intro hk ho
    exact endsOk_readScalar rfl hk (State.order_eq_big ho) (readInt_big_atCursor_four s)
  case little =>
    intro hk ho
    exact endsOk_readScalar rfl hk (State.order_eq_little ho) (readInt_little_atCursor_four s)

/-- Settles O32: the underrun is tested first, and a read inside the input is a copy to OBUF. -/
theorem curRdnCopiesBytes : Obligations.CurRdnCopiesBytes := by
  refine fun s n => ⟨wordN_eq_or _ n, ?underrun, ?capacity, ?copied⟩
  case underrun =>
    intro h
    exact endsWithFault_of (c := .underrun) (exec_curRdn_short h)
  case capacity =>
    intro h hcap
    exact endsWithFault_readOut (exec_curRdn_enough h) hcap
  case copied =>
    intro h hcap
    exact endsOkWithOutput_readOut (exec_curRdn_enough h) hcap

/-- Settles O33: the underrun is tested first, then the exact length, and a read of all that remains is a copy to
OBUF. -/
theorem curRdxReadsExactly : Obligations.CurRdxReadsExactly := by
  refine fun s n => ⟨wordN_eq_or _ n, ?underrun, ?mismatch, ?capacity, ?copied⟩
  case underrun =>
    intro h
    exact endsWithFault_of (c := .underrun) (exec_curRdx_short h)
  case mismatch =>
    intro h
    exact endsWithFault_of (c := .lenMismatch) (exec_curRdx_long h)
  case capacity =>
    intro h hcap
    exact endsWithFault_readOut (exec_curRdx_exact h) hcap
  case copied =>
    intro h hcap
    exact endsOkWithOutput_readOut (exec_curRdx_exact h) hcap

/-- Settles O34: both commands are the one move, with their own targets. -/
theorem curSkipAndSeekMove : Obligations.CurSkipAndSeekMove := by
  refine fun s n => ⟨wordN_eq_or _ n, wordN_eq_or _ n, ?skipFault, ?skip, ?seekFault, ?seek⟩
  case skipFault => exact endsWithFault_moveTo rfl
  case skip =>
    intro h
    rw [← State.setPos_add_immediate]
    exact endsOk_moveTo rfl h
  case seekFault => exact endsWithFault_moveTo rfl
  case seek =>
    intro h
    rw [← State.setPos_immediate]
    exact endsOk_moveTo rfl h

/-- Settles O29: CUR.WRAP tests nothing. -/
theorem curWrapStartsTheCursor : Obligations.CurWrapStartsTheCursor := ⟨rfl, fun _ => endsOk_of rfl⟩

end Sys2Proof.Safety

/-! ### The words of format S and the `SSEL` of an open builder (30_encoding.md R90; 10_state.md R36) -/

namespace Sys2Proof

/-- A word is its four fields, each shifted to its place and OR-combined (R86). -/
theorem wordOf_eq_or (o a b c : BitVec 8) :
    wordOf o a b c =
      (o ++ 0#24) ||| (a.zeroExtend 32 <<< 16) ||| (b.zeroExtend 32 <<< 8) ||| c.zeroExtend 32 := by
  apply BitVec.eq_of_getLsbD_eq
  intro j hj
  have past : ∀ (x : BitVec 8) {k : Nat}, 8 ≤ k → x.getLsbD k = false := fun x _ hk => x.getLsbD_of_ge _ hk
  simp only [wordOf_getLsbD, BitVec.getLsbD_or, BitVec.getLsbD_append, BitVec.getLsbD_shiftLeft,
    BitVec.getLsbD_setWidth, BitVec.getLsbD_zero]
  by_cases hc : j < 8
  · simp [hc, hj, show j < 16 by omega, show j < 24 by omega]
  · by_cases hb : j < 16
    · simp [hc, hb, hj, show j < 24 by omega, show j - 8 < 32 by omega, past c (Nat.not_lt.1 hc)]
    · by_cases ha : j < 24
      · simp [hc, hb, ha, hj, show j - 16 < 32 by omega, past c (Nat.not_lt.1 hc),
          past b (show 8 ≤ j - 8 by omega)]
      · simp [hc, hb, ha, past c (Nat.not_lt.1 hc), past b (show 8 ≤ j - 8 by omega),
          past a (show 8 ≤ j - 16 by omega)]

/-- The word of a command that has the operand `f` only (R90). -/
theorem wordOf_eq_or_field (o f : BitVec 8) : wordOf o 0 f 0 = (o ++ 0#24) ||| (f.zeroExtend 32 <<< 8) := by
  simp [wordOf_eq_or]

/-- The word of a command that has no operand `f`: `t` is at its place, whatever the last field holds (R90). -/
theorem wordOf_eq_or_struct (o t c : BitVec 8) : wordOf o t 0 c = wordOf o 0 0 c ||| (t.zeroExtend 32 <<< 16) := by
  rw [wordOf_eq_or o t 0 c, wordOf_eq_or o 0 0 c]
  simp [BitVec.or_assoc, BitVec.or_comm]

/-- `actor` at its place in a word (R90). -/
theorem actorBits_zeroExtend (a : Actor) : (actorBits a).zeroExtend 32 = if a = .service then 1#32 else 0#32 := by
  cases a <;> rfl

end Sys2Proof

namespace Sys2Proof.Machine

/-- `OPEN` set and the id in `T` (R36). -/
theorem sselOpen_eq_or (t : BitVec 8) : sselOpen t = 0x100#32 ||| t.zeroExtend 32 :=
  calc sselOpen t = wordOf 0 0 1 t := rfl
    _ = 0x100#32 ||| t.zeroExtend 32 := wordOf_eq_or 0 0 1 t

/-- An `SSEL` with a builder open and its reserved bits zero holds nothing but the id of the structure (R36). -/
theorem sselOpen_builderId {s : State} (hopen : s.builderOpen = true) (hreserved : s.ssel &&& 0xFFFFFE00#32 = 0) :
    sselOpen s.builderId = s.ssel := by
  have mask : ∀ j < 32, (0xFFFFFE00#32).getLsbD j = decide (9 ≤ j) := by decide
  apply BitVec.eq_of_getLsbD_eq
  intro j hj
  rw [sselOpen, BitVec.getLsbD_append, BitVec.getLsbD_append]
  by_cases hid : j < 8
  · simp [hid, State.builderId]
  · by_cases hbit : j = 8
    · subst hbit
      exact hopen.symm
    · have hzero := congrArg (BitVec.getLsbD · j) hreserved
      simp only [BitVec.getLsbD_and, mask j hj, show 9 ≤ j by omega, decide_true, Bool.and_true] at hzero
      simpa [hid, show ¬ j - 8 < 1 by omega] using hzero.symm

end Sys2Proof.Machine

/-! ### The meanings of the codec commands, one equation for each outcome of their tests (41_codec.md R122 to R130,
R139) -/

namespace Sys2Proof.Machine

section Outcomes

variable {s : State} {t f : BitVec 8} {a : Actor} {d : Descriptor} {x : FieldDesc}

theorem exec_emapGet_unknown (hd : s.desc t = none) :
    exec (.emapGet t f a) s = finish s (.raise .badArg 1 t.toNat 0) := by
  simp only [exec, execEmapGet, hd]

theorem exec_emapGet_outside (hd : s.desc t = some d) (hf : d.length ≤ f.toNat) :
    exec (.emapGet t f a) s = finish s (.raise .badArg 3 f.toNat 0) := by
  simp only [exec, execEmapGet, hd, List.getElem?_eq_none hf]

theorem exec_emapGet_field (hd : s.desc t = some d) (hx : d[f.toNat]? = some x) :
    exec (.emapGet t f a) s = finish s (.ok s [] (if converts a x then 1 else 0)) := by
  simp only [exec, execEmapGet, hd, hx]

theorem exec_emapSize_unknown (hd : s.desc t = none) :
    exec (.emapSize t a) s = finish s (.raise .badArg 1 t.toNat 0) := by
  simp only [exec, execEmapSize, hd]

theorem exec_emapSize_known (hd : s.desc t = some d) :
    exec (.emapSize t a) s = finish s (.ok s [] (BitVec.ofNat 32 (emapSize a d))) := by
  simp only [exec, execEmapSize, hd]

theorem exec_stNew_unknown (hd : s.desc t = none) :
    exec (.stNew t) s = finish s (.raise .badArg 1 t.toNat 0) := by
  simp only [exec, execStNew, hd]

theorem exec_stNew_known (hd : s.desc t = some d) :
    exec (.stNew t) s = finish s (done (s.openBuilder t (freshFields d))) := by
  simp only [exec, execStNew, hd]

theorem exec_stSetf_closed (ho : s.builderOpen = false) :
    exec (.stSetf f) s = finish s (.raise .badArg 2 0 0) := by
  simp [exec, execStSetf, ho]

theorem exec_stSetf_outside (ho : s.builderOpen = true) (hf : s.openDesc.length ≤ f.toNat) :
    exec (.stSetf f) s = finish s (.raise .badArg 3 f.toNat 0) := by
  simp [exec, execStSetf, ho, List.getElem?_eq_none hf]

theorem exec_stSetf_fixed {size : Nat} (ho : s.builderOpen = true) (hx : s.openDesc[f.toNat]? = some x)
    (hk : x.kind = .fixed size) : exec (.stSetf f) s = finish s (setFixed s f.toNat size) := by
  simp [exec, execStSetf, ho, hx, hk]

theorem exec_stSetf_len {size target : Nat} (ho : s.builderOpen = true) (hx : s.openDesc[f.toNat]? = some x)
    (hk : x.kind = .len size target) : exec (.stSetf f) s = finish s (.raise .badArg 4 f.toNat 0) := by
  simp [exec, execStSetf, ho, hx, hk]

theorem exec_stSetf_var {lf : Nat} (ho : s.builderOpen = true) (hx : s.openDesc[f.toNat]? = some x)
    (hk : x.kind = .var lf) : exec (.stSetf f) s = finish s (setVar s f.toNat lf) := by
  simp [exec, execStSetf, ho, hx, hk]

theorem exec_stGetf_closed (ho : s.builderOpen = false) :
    exec (.stGetf f) s = finish s (.raise .badArg 2 0 0) := by
  simp [exec, execStGetf, ho]

theorem exec_stGetf_outside (ho : s.builderOpen = true) (hf : s.openDesc.length ≤ f.toNat) :
    exec (.stGetf f) s = finish s (.raise .badArg 3 f.toNat 0) := by
  simp [exec, execStGetf, ho, hf]

theorem exec_stGetf_field (ho : s.builderOpen = true) (hf : f.toNat < s.openDesc.length) :
    exec (.stGetf f) s = finish s (outOrCapacity s (s.field f.toNat)) := by
  simp [exec, execStGetf, ho, Nat.not_le.2 hf]

theorem exec_stBuild_closed (ho : s.builderOpen = false) :
    exec (.stBuild a) s = finish s (.raise .badArg 2 0 0) := by
  simp [exec, execStBuild, ho]

theorem exec_stBuild_open (ho : s.builderOpen = true) :
    exec (.stBuild a) s = finish s (outOrCapacity s (buildBytes a s.openDesc s.fs)) := by
  simp [exec, execStBuild, ho]

theorem exec_stParse_unknown (hd : s.desc t = none) :
    exec (.stParse t a) s = finish s (.raise .badArg 1 t.toNat 0) := by
  simp only [exec, execStParse, hd]

theorem exec_stParse_known (hd : s.desc t = some d) :
    exec (.stParse t a) s = finish s (parseWith s t a d) := by
  simp only [exec, execStParse, hd]

/-- The open builder's descriptor, when the table has one for its id (R36, R120). -/
theorem openDesc_of_desc (hd : s.desc s.builderId = some d) : s.openDesc = d := by simp [State.openDesc, hd]

end Outcomes

/-- FIRMWARE converts a CONVERT entry, and nobody converts anything else (R121). -/
theorem converts_eq_true {a : Actor} {x : FieldDesc} : converts a x = true ↔ a = .firmware ∧ x.fw = .convert := by
  cases a <;> simp [converts]

/-- `conv` by the two conditions that `converts` tests (R126). -/
theorem conv_eq_ite (a : Actor) (x : FieldDesc) (v : Bytes) :
    conv a x v = if a = .firmware ∧ x.fw = .convert then revPrim x.prim v else v := by
  simp only [conv, converts_eq_true]

/-- The fields of a new builder, kind by kind (R127). -/
theorem freshFields_getElem? {d : Descriptor} {f : Nat} {x : FieldDesc} (hx : d[f]? = some x) :
    (freshFields d)[f]? = some (zeros x.fixedSize) := by
  simp [freshFields, hx]

end Sys2Proof.Machine

/-! ### How the codec commands end (41_codec.md R122 to R130) -/

namespace Sys2Proof.Safety

open Sys2Proof.Machine

/-- An output longer than OBUF (R129, R130). -/
theorem endsWithFault_outOrCapacity {i : Instr} {s : State} {out : Bytes}
    (he : exec i s = finish s (outOrCapacity s out)) (h : s.params.obufBytes < out.length) :
    EndsWithFault i s 16 out.length s.params.obufBytes 0 :=
  endsWithFault_of (c := .capacity) (he.trans (congrArg (finish s) (if_pos h)))

/-- An output that OBUF can hold. -/
theorem endsOkWithOutput_outOrCapacity {i : Instr} {s : State} {out : Bytes}
    (he : exec i s = finish s (outOrCapacity s out)) (h : out.length ≤ s.params.obufBytes) :
    EndsOkWithOutput i s s out :=
  endsOkWithOutput_of (he.trans (congrArg (finish s) (if_neg (Nat.not_lt.2 h))))

/-- Settles O35: the unknown id is tested before the field index, and the answer is the test `converts`. -/
theorem emapGetAnswersTheDecision : Obligations.EmapGetAnswersTheDecision := by
  refine fun s t f a => ⟨?word, ?unknown, fun d hd => ⟨?outside, fun x hx => ⟨?convert, ?none⟩⟩⟩
  case word =>
    rw [encode, wordOf_eq_or, actorBits_zeroExtend]
    rfl
  case unknown =>
    intro hd
    exact endsWithFault_of (c := .badArg) (exec_emapGet_unknown hd)
  case outside =>
    intro hf
    exact endsWithFault_of (c := .badArg) (exec_emapGet_outside hd hf)
  case convert =>
    intro h
    apply endsOk_of
    rw [exec_emapGet_field hd hx, if_pos (converts_eq_true.2 h)]
  case none =>
    intro h
    have hnot : ¬ converts a x = true := by
      rw [converts_eq_true]
      rintro ⟨rfl, hfw⟩
      simp [hfw] at h
    apply endsOk_of
    rw [exec_emapGet_field hd hx, if_neg hnot]

/-- Settles O36: the unknown id is the only test, and the FIRMWARE count is that of the entries that are not ABSENT. -/
theorem emapSizeCountsTheEntries : Obligations.EmapSizeCountsTheEntries := by
  refine fun s t => ⟨?wordFirmware, ?wordService, ?unknown, fun d hd => ⟨?service, ?firmware⟩⟩
  case wordFirmware => exact wordOf_eq_or_struct 0x21 t 0
  case wordService => exact wordOf_eq_or_struct 0x21 t 1
  case unknown =>
    intro hd a
    exact endsWithFault_of (c := .badArg) (exec_emapSize_unknown hd)
  case service => exact endsOk_of (exec_emapSize_known hd)
  case firmware =>
    rw [← List.countP_eq_length_filter]
    exact endsOk_of (exec_emapSize_known hd)

/-- Settles O38: the unknown id is the only test, and the new field store is `freshFields`. -/
theorem stNewOpensAZeroBuilder : Obligations.StNewOpensAZeroBuilder := by
  refine fun s t => ⟨wordOf_eq_or_struct 0x22 t 0, ?unknown, fun d hd => ⟨freshFields d, ?opened, ?length, ?fields⟩⟩
  case unknown =>
    intro hd
    exact endsWithFault_of (c := .badArg) (exec_stNew_unknown hd)
  case opened =>
    rw [← sselOpen_eq_or]
    exact endsOk_of (exec_stNew_known hd)
  case length => exact freshFields_length d
  case fields =>
    intro f x hx
    rw [freshFields_getElem? hx, FieldDesc.fixedSize]
    cases x.kind <;> rfl

/-- Settles O39: the tests in their order, then the write of each kind of field. -/
theorem stSetfWritesOneField : Obligations.StSetfWritesOneField := by
  refine fun s f => ⟨wordOf_eq_or_field 0x23 f, ?closed, fun d ho hd => ?opened⟩
  case closed =>
    intro ho
    exact endsWithFault_of (c := .badArg) (exec_stSetf_closed ho)
  case opened =>
    obtain rfl : s.openDesc = d := openDesc_of_desc hd
    refine ⟨?outside, fun x hx => ⟨?fixed, ?len, ?var⟩⟩
    case outside =>
      intro hf
      exact endsWithFault_of (c := .badArg) (exec_stSetf_outside ho hf)
    case fixed =>
      intro size hk
      have he := exec_stSetf_fixed ho hx hk
      refine ⟨fun hsize => ?_, fun hsize => ?_⟩
      · exact endsWithFault_of (c := .fieldLen) (he.trans (congrArg (finish s) (if_pos hsize)))
      · subst hsize
        exact endsOk_of (he.trans (congrArg (finish s) (if_neg (not_not.2 rfl))))
    case len =>
      intro size g hk
      exact endsWithFault_of (c := .badArg) (exec_stSetf_len ho hx hk)
    case var =>
      intro lf w g hk hlf total
      obtain ⟨y, hy, hyk⟩ := Option.map_eq_some_iff.1 hlf
      have he := exec_stSetf_var ho hx hk
      refine ⟨fun hcap => ?_, fun hcap => ?_⟩
      · exact endsWithFault_of (c := .capacity) (he.trans (congrArg (finish s) (if_pos hcap)))
      · rw [← lenSize_of_len hy hyk]
        exact endsOk_of (he.trans (congrArg (finish s) (if_neg (Nat.not_lt.2 hcap))))

/-- Settles O40: the tests in their order, then the field as the output. -/
theorem stGetfReadsOneField : Obligations.StGetfReadsOneField := by
  refine fun s f => ⟨wordOf_eq_or_field 0x24 f, ?closed, fun d ho hd => ?opened⟩
  case closed =>
    intro ho
    exact endsWithFault_of (c := .badArg) (exec_stGetf_closed ho)
  case opened =>
    obtain rfl : s.openDesc = d := openDesc_of_desc hd
    refine ⟨?outside, fun v hf hv => ?inside⟩
    case outside =>
      intro hf
      exact endsWithFault_of (c := .badArg) (exec_stGetf_outside ho hf)
    case inside =>
      obtain rfl : s.field f.toNat = v := by rw [State.field, List.getD_eq_getElem?_getD, hv, Option.getD_some]
      exact ⟨endsWithFault_outOrCapacity (exec_stGetf_field ho hf),
        endsOkWithOutput_outOrCapacity (exec_stGetf_field ho hf)⟩

/-- Settles O41: the test for an open builder, then the concatenation of the wire values as the output. -/
theorem stBuildConcatenatesTheWireValues : Obligations.StBuildConcatenatesTheWireValues := by
  refine ⟨rfl, rfl, fun s a => ⟨?closed, fun d ho hd _ => ?opened⟩⟩
  case closed =>
    intro ho
    exact endsWithFault_of (c := .badArg) (exec_stBuild_closed ho)
  case opened =>
    obtain rfl : s.openDesc = d := openDesc_of_desc hd
    have he : exec (.stBuild a) s = finish s (outOrCapacity s (buildBytes a s.openDesc s.fs)) := exec_stBuild_open ho
    simp only [buildBytes, funext₂ (conv_eq_ite a)] at he
    exact ⟨endsWithFault_outOrCapacity he, endsOkWithOutput_outOrCapacity he⟩

end Sys2Proof.Safety

/-! ### The outcomes of a parse (41_codec.md R139, R141 to R143) -/

namespace Sys2Proof.Machine

section Parsing

variable {s : State} {t : BitVec 8} {a : Actor} {d : Descriptor} {values : List Bytes} {rest : Bytes}

theorem parseWith_unreadable {e : ParseFailure} (hr : readFields a d [] s.input = .error e) :
    parseWith s t a d = .raise .parse e.remaining e.wanted e.info := by
  simp only [parseWith, hr]

theorem parseWith_badMagic {f v : Nat} (hr : readFields a d [] s.input = .ok (values, rest))
    (hm : badMagic 0 d values = some (f, v)) : parseWith s t a d = .raise .struct f v 1 := by
  simp only [parseWith, hr, hm]

theorem parseWith_leftOver (hr : readFields a d [] s.input = .ok (values, rest)) (hm : badMagic 0 d values = none)
    (hrest : rest.length ≠ 0) : parseWith s t a d = .raise .struct d.length rest.length 2 := by
  simp only [parseWith, hr, hm, if_pos hrest]

theorem parseWith_tooLong (hr : readFields a d [] s.input = .ok (values, [])) (hm : badMagic 0 d values = none)
    (hcap : s.params.fsBytes < s.ilen.toNat) :
    parseWith s t a d = .raise .capacity s.ilen.toNat s.params.fsBytes 0 := by
  simp [parseWith, hr, hm, hcap]

theorem parseWith_parsed (hr : readFields a d [] s.input = .ok (values, [])) (hm : badMagic 0 d values = none)
    (hcap : s.ilen.toNat ≤ s.params.fsBytes) : parseWith s t a d = done (s.openBuilder t values) := by
  simp [parseWith, hr, hm, Nat.not_lt.2 hcap]

end Parsing

end Sys2Proof.Machine

namespace Sys2Proof.Safety

open Sys2Proof.Machine

section ReadPhase

variable {a : Actor} {d : Descriptor} {input : Bytes} {values : List Bytes} {x : FieldDesc}

/-- The read phase stops at a field that wants more bytes than remain (R141, cause 1). -/
theorem readFields_short (h : ReadSoFar a d input values) (hx : d[values.length]? = some x)
    (hk : input.length - (values.map List.length).sum < fieldCount x values) :
    readFields a d [] input = .error ⟨input.length - (values.map List.length).sum, fieldCount x values,
      1 + 256 * values.length⟩ := by
  obtain ⟨hlt, rfl⟩ := List.getElem?_eq_some_iff.1 hx
  rw [readFields_of_readSoFar h, List.drop_eq_getElem_cons hlt, readFields, wantedBytes_eq_fieldCount,
    List.length_drop, parseInfo_eq 1 _ (by decide)]
  exact if_pos hk

/-- The read phase stops at a last field that is variable and wants fewer bytes than remain (R141, cause 2). -/
theorem readFields_inexact (h : ReadSoFar a d input values) (hx : d[values.length]? = some x)
    (hk : fieldCount x values < input.length - (values.map List.length).sum) (hvar : ∃ lf, x.kind = .var lf)
    (hlast : values.length + 1 = d.length) :
    readFields a d [] input = .error ⟨input.length - (values.map List.length).sum, fieldCount x values,
      2 + 256 * values.length⟩ := by
  obtain ⟨hlt, rfl⟩ := List.getElem?_eq_some_iff.1 hx
  have hnone : (d.drop (values.length + 1)).isEmpty = true := by simp [hlast]
  rw [readFields_of_readSoFar h, List.drop_eq_getElem_cons hlt, readFields, wantedBytes_eq_fieldCount,
    List.length_drop, parseInfo_eq 2 _ (by decide), (isVar_iff _).2 hvar, hnone]
  simp only [if_neg (Nat.lt_asymm hk), Bool.true_and, decide_eq_true_eq, if_pos (Nat.ne_of_gt hk)]

/-- The read phase that has read every field gives the values and the bytes left over. -/
theorem readFields_all (h : ReadSoFar a d input values) (hall : values.length = d.length) :
    readFields a d [] input = .ok (values, input.drop ((values.map List.length).sum)) := by
  rw [readFields_of_readSoFar h, hall, List.drop_length, readFields]

end ReadPhase

/-- Settles O42: the unknown id is the first test, and a field that cannot be read ends the read phase. -/
theorem stParseFaultsAtTheFirstUnreadableField : Obligations.StParseFaultsAtTheFirstUnreadableField := by
  refine fun s t a => ⟨?word, ?unknown, fun d values x hd hread hx => ?unreadable⟩
  case word =>
    rw [encode, wordOf_eq_or, actorBits_zeroExtend, show (0 : BitVec 8).zeroExtend 32 <<< 8 = 0#32 from rfl,
      BitVec.or_zero]
    rfl
  case unknown =>
    intro hd
    exact endsWithFault_of (c := .badArg) (exec_stParse_unknown hd)
  case unreadable =>
    have fails : ∀ e : ParseFailure, readFields a d [] s.input = .error e →
        EndsWithFault (.stParse t a) s 5 e.remaining e.wanted e.info := fun e he =>
      endsWithFault_of (c := .parse) ((exec_stParse_known hd).trans (congrArg (finish s) (parseWith_unreadable he)))
    rw [← input_length s]
    exact ⟨fun hk => fails _ (readFields_short hread hx hk),
      fun hk hvar hlast => fails _ (readFields_inexact hread hx hk hvar hlast)⟩

/-- Settles O43: once every field has been read, the tests of `parseWith` in their order. -/
theorem stParseAfterTheReadPhase : Obligations.StParseAfterTheReadPhase := by
  intro s t a d values hd hread hall used
  have hr : readFields a d [] s.input = .ok (values, s.input.drop used) := readFields_all hread hall
  have nothingLeft : used = s.ilen.toNat → s.input.drop used = [] := fun h =>
    List.drop_eq_nil_of_le (by rw [input_length, h])
  have he : exec (.stParse t a) s = finish s (parseWith s t a d) := exec_stParse_known hd
  refine ⟨?magic, ?leftOver, ?capacity, ?parsed⟩
  case magic =>
    intro f x allowed hx hm hn hbefore
    have hbad := badMagic_eq_some 0 d values hall f x allowed hx hm hn hbefore
    rw [Nat.zero_add] at hbad
    exact endsWithFault_of (c := .struct) (he.trans (congrArg (finish s) (parseWith_badMagic hr hbad)))
  case leftOver =>
    intro hm hlt
    have hcount : (s.input.drop used).length = s.ilen.toNat - used := by rw [List.length_drop, input_length]
    rw [← hcount]
    exact endsWithFault_of (c := .struct) (he.trans (congrArg (finish s)
      (parseWith_leftOver hr ((badMagic_eq_none 0 d values hall).2 hm) (by omega))))
  case capacity =>
    intro hm hused hcap
    rw [nothingLeft hused] at hr
    exact endsWithFault_of (c := .capacity) (he.trans (congrArg (finish s)
      (parseWith_tooLong hr ((badMagic_eq_none 0 d values hall).2 hm) hcap)))
  case parsed =>
    intro hm hused hcap
    rw [nothingLeft hused] at hr
    rw [← sselOpen_eq_or]
    exact endsOk_of (he.trans (congrArg (finish s)
      (parseWith_parsed hr ((badMagic_eq_none 0 d values hall).2 hm) hcap)))

end Sys2Proof.Safety

/-! ### Parsing what a builder gave (41_codec.md R130, R139, R144) -/

namespace Sys2Proof.Safety

open Sys2Proof.Machine

section RoundTrip

variable {n : Nat} {a : Actor} {d : Descriptor} {fields : List Bytes}

/-- The first fields take no more bytes than all of them. -/
theorem bytesBefore_le (values : List Bytes) (f : Nat) : bytesBefore values f ≤ (values.map List.length).sum := by
  rw [bytesBefore, List.map_take]
  exact ((values.map List.length).take_sublist f).sum_le_sum fun _ _ => Nat.zero_le _

/-- Every wire value is as long as its field (R126). -/
theorem wireValues_lengths (h : fields.length = d.length) :
    (List.zipWith (conv a) d fields).map List.length = fields.map List.length := by
  apply List.ext_getElem
  · simp [h]
  · intro f _ _
    simp

theorem buildBytes_length (h : fields.length = d.length) :
    (buildBytes a d fields).length = (fields.map List.length).sum := by
  rw [buildBytes, List.length_flatten, wireValues_lengths h]

/-- The bytes of a builder from the field `f` on. -/
theorem drop_buildBytes (h : fields.length = d.length) (f : Nat) :
    (buildBytes a d fields).drop (bytesBefore fields f) = buildBytes a (d.drop f) (fields.drop f) := by
  rw [bytesBefore, List.map_take, ← wireValues_lengths (a := a) h, buildBytes, List.drop_sum_flatten,
    List.drop_zipWith, buildBytes]

/-- The bytes of the field `f` among those of a builder are its wire value (R130). -/
theorem wireValue_buildBytes (h : fields.length = d.length) {f : Nat} {x : FieldDesc} (hx : d[f]? = some x) :
    ((buildBytes a d fields).drop (bytesBefore fields f)).take (fields.getD f []).length =
      conv a x (fields.getD f []) := by
  obtain ⟨hd, rfl⟩ := List.getElem?_eq_some_iff.1 hx
  have hf : f < fields.length := h ▸ hd
  rw [drop_buildBytes h, List.drop_eq_getElem_cons hd, List.drop_eq_getElem_cons hf, List.getD_eq_getElem _ _ hf]
  exact List.take_left' (conv_length a d[f] fields[f])

/-- The value of a field of a builder is one that `conv` gives back (R12, R126). -/
theorem conv_conv_field (hwf : Descriptor.wf n d = true) (h : FieldsFit d fields) {f : Nat} {x : FieldDesc}
    (hx : d[f]? = some x) : conv a x (conv a x (fields.getD f [])) = fields.getD f [] := by
  obtain ⟨-, hfit⟩ := (fieldsFit_iff _ _).1 h
  obtain ⟨hfixed, hlen⟩ := hfit f x hx
  obtain ⟨hpos, hdvd⟩ := FieldDesc.prim_divides_length (Descriptor.field_wf hwf hx) hfixed
    fun size target hk => by rw [hlen size target hk, beBytes_length]
  exact conv_conv a hpos hdvd

/-- Reading back, each field takes as many bytes as the builder's field has: a LEN field of 2 or 4 bytes can hold the
count of every VAR field that the field store can hold (R46 (b), R50). -/
theorem fieldCount_of_fieldsFit (hwf : Descriptor.wf n d = true) (h : FieldsFit d fields)
    (htotal : (fields.map List.length).sum ≤ 65535) {f : Nat} {x : FieldDesc} (hx : d[f]? = some x) :
    fieldCount x (fields.take f) = (fields.getD f []).length := by
  obtain ⟨-, hfit⟩ := (fieldsFit_iff _ _).1 h
  obtain ⟨hfixed, hlen⟩ := hfit f x hx
  cases hk : x.kind with
  | fixed size => rw [fieldCount, hk, hfixed size hk]
  | len size target => rw [fieldCount, hk, hlen size target hk, beBytes_length]
  | var lf =>
    obtain ⟨-, -, hlt, y, size, hy, hyk⟩ := FieldDesc.wf_var (Descriptor.field_wf hwf hx) hk
    obtain ⟨hsize, -⟩ := FieldDesc.wf_len (Descriptor.field_wf hwf hy) hyk
    have hearlier : (fields.take f).getD lf [] = fields.getD lf [] := by
      rw [List.getD_eq_getElem?_getD, List.getElem?_take_of_lt hlt, ← List.getD_eq_getElem?_getD]
    have hroom : (fields.getD f []).length < 256 ^ size := by
      have hle := field_le_total fields f
      obtain rfl | rfl := hsize <;> omega
    simp only [fieldCount, hk, hearlier]
    rw [(hfit lf y hy).2 size f hyk, intBE_beBytes _ _ hroom]

/-- The read phase takes the bytes of a builder apart into its fields (R144). -/
theorem readSoFar_buildBytes (hwf : Descriptor.wf n d = true) (h : FieldsFit d fields)
    (htotal : (fields.map List.length).sum ≤ 65535) : ReadSoFar a d (buildBytes a d fields) fields := by
  have hall := h.1
  refine ⟨hall.le, fun f x hf hx => ?_⟩
  have hnext := bytesBefore_succ fields f hf
  simp only [fieldCount_of_fieldsFit hwf h htotal hx, buildBytes_length hall]
  refine ⟨?room, ?last, ?value⟩
  case room => exact hnext ▸ bytesBefore_le fields (f + 1)
  case last =>
    intro _ hlast
    rw [hlast, ← hall, bytesBefore_length] at hnext
    rw [hnext]
    exact Nat.add_sub_cancel_left _ _
  case value =>
    exact ((congrArg (conv a x) (wireValue_buildBytes hall hx)).trans (conv_conv_field hwf h hx)).symm

end RoundTrip

/-- ST.BUILD that ends OK leaves the bytes of the builder in OBUF and their count in `OLEN` (R130). -/
theorem output_of_stBuild {s s' : State} {a : Actor} (ho : s.builderOpen = true)
    (he : exec (.stBuild a) s = .next s') (hok : s'.err = 0) :
    s'.obuf.readBytes 0 s'.olen.toNat = buildBytes a s.openDesc s.fs := by
  rw [exec_stBuild_open ho, finish_eq_next] at he
  obtain ⟨-, hfault⟩ | ⟨hle, hout⟩ := outOrCapacity_cases s (buildBytes a s.openDesc s.fs)
  · rw [hfault, complete_raise] at he
    exact absurd (he ▸ hok) (faultEntry_err_ne_zero _ _ _ _ _)
  · rw [hout, complete_ok] at he
    obtain ⟨-, ⟨-, hbound⟩, -⟩ := s.params.bounds
    rw [← he, State.okCompletion_obuf, State.okCompletion_olen, BitVec.toNat_ofNat, Nat.mod_eq_of_lt (by omega),
      Memory.readBytes_writeBytes]

/-- Settles O44: the read phase takes the bytes apart into the builder's fields (`readSoFar_buildBytes`), and then O43
says how the parse ends. -/
theorem parseUndoesBuild : Obligations.ParseUndoesBuild := by
  intro s s' u d a hinv ho hd hmagic he hok hparams hinput
  obtain ⟨hdesc, hfit⟩ := hinv.openDesc_fits ho
  obtain rfl : s.openDesc = d := openDesc_of_desc hd
  rw [output_of_stBuild ho he hok] at hinput
  have htotal : (s.fs.map List.length).sum ≤ s.params.fsBytes := hinv.fs_total
  obtain ⟨-, -, ⟨-, hbound⟩, -⟩ := s.params.bounds
  have hread : ReadSoFar a s.openDesc u.input s.fs := by
    rw [hinput]
    exact readSoFar_buildBytes (s.params.desc_wf _ _ hdesc) hfit (htotal.trans hbound)
  have hilen : (s.fs.map List.length).sum = u.ilen.toNat := by
    rw [← input_length u, hinput, buildBytes_length hfit.1]
  obtain ⟨-, -, -, hparsed⟩ := stParseAfterTheReadPhase u s.builderId a s.openDesc s.fs (hparams ▸ hdesc) hread hfit.1
  rw [← sselOpen_builderId ho hinv.ssel_reserved, sselOpen_eq_or]
  exact hparsed hmagic hilen (by rw [← hilen, hparams]; exact htotal)

end Sys2Proof.Safety

/-! ### The fields of a header word (42_header.md R8, R151, R153, R157) -/

namespace Sys2Proof

/-- R8: a header field lies inside the 32 bits. -/
theorem HdrField.fits {x : HdrField} (h : x.wf = true) : x.offset + x.width ≤ 32 := by
  simp only [HdrField.wf, Bool.and_eq_true, decide_eq_true_eq] at h
  exact h.2

theorem HdrField.disjoint_iff {x y : HdrField} :
    x.disjoint y = true ↔ x.offset + x.width ≤ y.offset ∨ y.offset + y.width ≤ x.offset := by
  simp [HdrField.disjoint]

theorem HdrField.disjoint_symm {x y : HdrField} (h : x.disjoint y = true) : y.disjoint x = true :=
  HdrField.disjoint_iff.2 (HdrField.disjoint_iff.1 h).symm

theorem HdrTable.fields_wf {h : HdrTable} (hwf : h.wf = true) :
    h.code.wf = true ∧ h.length.wf = true ∧ h.client.wf = true ∧ h.id.wf = true := by
  simp only [HdrTable.wf, Bool.and_eq_true] at hwf
  tauto

/-- R8: no two fields of a header table share a bit. -/
theorem HdrTable.fields_disjoint {h : HdrTable} (hwf : h.wf = true) :
    (h.code.disjoint h.length = true ∧ h.code.disjoint h.client = true ∧ h.code.disjoint h.id = true) ∧
      (h.length.disjoint h.client = true ∧ h.length.disjoint h.id = true) ∧ h.client.disjoint h.id = true := by
  simp only [HdrTable.wf, Bool.and_eq_true] at hwf
  have hsymm := HdrField.disjoint_symm (x := h.id) (y := h.client)
  tauto

end Sys2Proof

namespace Sys2Proof.Machine

section Fields

variable {x y : HdrField}

/-- The bits of an extracted field are those of the word from the field's offset on (R157). -/
theorem headerField_getLsbD (hx : x.wf = true) (w : Word) (j : Nat) :
    (headerField x w).getLsbD j = (decide (j < x.width) && w.getLsbD (x.offset + j)) := by
  have hfits := HdrField.fits hx
  rw [headerField, BitVec.getLsbD_ushiftRight, BitVec.getLsbD_shiftLeft]
  by_cases hj : j < x.width
  · simp [hj, show 32 - x.width + j < 32 by omega,
      show ¬ 32 - x.width + j < 32 - x.offset - x.width by omega,
      show 32 - x.width + j - (32 - x.offset - x.width) = x.offset + j by omega]
  · simp [hj, show ¬ 32 - x.width + j < 32 by omega]

/-- An extracted field as an integer: the word without the bits below the field and those above it (R157). -/
theorem headerField_toNat (hx : x.wf = true) (w : Word) :
    (headerField x w).toNat = w.toNat / 2 ^ x.offset % 2 ^ x.width := by
  apply Nat.eq_of_testBit_eq
  intro j
  rw [Nat.testBit_mod_two_pow, Nat.testBit_div_two_pow, Nat.add_comm j]
  exact headerField_getLsbD hx w j

/-- A field is taken from each part of a word apart (R153, R157). -/
theorem headerField_or (x : HdrField) (v w : Word) : headerField x (v ||| w) = headerField x v ||| headerField x w := by
  rw [headerField, BitVec.shiftLeft_or_distrib, BitVec.ushiftRight_or_distrib, headerField, headerField]

/-- A value that fits a field, put at its offset and taken back (R160). -/
theorem headerField_shiftLeft_same (hx : x.wf = true) {v : Word} (hv : v.toNat < 2 ^ x.width) :
    headerField x (v <<< x.offset) = v := by
  have hfits := HdrField.fits hx
  apply BitVec.eq_of_getLsbD_eq
  intro j _
  rw [headerField_getLsbD hx, BitVec.getLsbD_shiftLeft]
  by_cases hj : j < x.width
  · simp [hj, show x.offset + j < 32 by omega]
  · have hzero : v.getLsbD j = false :=
      Nat.testBit_lt_two_pow (hv.trans_le (Nat.pow_le_pow_right (by decide) (Nat.not_lt.1 hj)))
    simp [hj, hzero]

/-- A value that fits a field puts nothing into a field that shares no bit with it (R160). -/
theorem headerField_shiftLeft_other (hx : x.wf = true) (hxy : x.disjoint y = true) {v : Word}
    (hv : v.toNat < 2 ^ y.width) : headerField x (v <<< y.offset) = 0#32 := by
  apply BitVec.eq_of_getLsbD_eq
  intro j _
  rw [headerField_getLsbD hx, BitVec.getLsbD_shiftLeft, BitVec.getLsbD_zero]
  by_cases hbelow : j < x.width ∧ y.offset ≤ x.offset + j
  · obtain ⟨hj, hy⟩ := hbelow
    have habove : y.width ≤ x.offset + j - y.offset := by
      obtain h | h := HdrField.disjoint_iff.1 hxy <;> omega
    have hzero : v.getLsbD (x.offset + j - y.offset) = false :=
      Nat.testBit_lt_two_pow (hv.trans_le (Nat.pow_le_pow_right (by decide) habove))
    simp [hzero]
  · by_cases hj : j < x.width
    · simp [show x.offset + j < y.offset by omega]
    · simp [hj]

end Fields

/-- Each field of a header word built from values that fit holds its own value (R160). -/
theorem headerField_headerWord {h : HdrTable} (hwf : h.wf = true) {code len client id : Word}
    (hcode : code.toNat < 2 ^ h.code.width) (hlen : len.toNat < 2 ^ h.length.width)
    (hclient : client.toNat < 2 ^ h.client.width) (hid : id.toNat < 2 ^ h.id.width) :
    headerField h.code (headerWord h code len client id) = code ∧
      headerField h.length (headerWord h code len client id) = len ∧
      headerField h.client (headerWord h code len client id) = client ∧
      headerField h.id (headerWord h code len client id) = id := by
  obtain ⟨wcode, wlen, wclient, wid⟩ := HdrTable.fields_wf hwf
  obtain ⟨⟨dcl, dcx, dci⟩, ⟨dlx, dli⟩, dxi⟩ := HdrTable.fields_disjoint hwf
  simp only [headerWord, headerField_or]
  refine ⟨?code, ?length, ?client, ?id⟩
  case code =>
    simp [headerField_shiftLeft_same wcode hcode, headerField_shiftLeft_other wcode dcl hlen,
      headerField_shiftLeft_other wcode dcx hclient, headerField_shiftLeft_other wcode dci hid]
  case length =>
    simp [headerField_shiftLeft_same wlen hlen, headerField_shiftLeft_other wlen (HdrField.disjoint_symm dcl) hcode,
      headerField_shiftLeft_other wlen dlx hclient, headerField_shiftLeft_other wlen dli hid]
  case client =>
    simp [headerField_shiftLeft_same wclient hclient,
      headerField_shiftLeft_other wclient (HdrField.disjoint_symm dcx) hcode,
      headerField_shiftLeft_other wclient (HdrField.disjoint_symm dlx) hlen,
      headerField_shiftLeft_other wclient dxi hid]
  case id =>
    simp [headerField_shiftLeft_same wid hid, headerField_shiftLeft_other wid (HdrField.disjoint_symm dci) hcode,
      headerField_shiftLeft_other wid (HdrField.disjoint_symm dli) hlen,
      headerField_shiftLeft_other wid (HdrField.disjoint_symm dxi) hclient]

/-! ### The header word in OBUF and in the input (42_header.md R152 to R158) -/

/-- A byte of a word, by division and by its place. -/
theorem ofNat_div_eq_extractLsb' (w : Word) (k : Nat) :
    BitVec.ofNat 8 (w.toNat / 2 ^ k) = w.extractLsb' k 8 := by
  rw [BitVec.extractLsb', Nat.shiftRight_eq_div_pow]

/-- The bytes of a word, most significant first (R11). -/
theorem beBytes_four (w : Word) :
    beBytes 4 w.toNat = [w.extractLsb' 24 8, w.extractLsb' 16 8, w.extractLsb' 8 8, w.extractLsb' 0 8] := by
  simp only [← ofNat_div_eq_extractLsb']
  rfl

/-- The bytes of an input of 4 bytes. -/
theorem input_four {s : State} (h : s.ilen = 4) :
    s.input = [s.ibuf.read 0, s.ibuf.read 1, s.ibuf.read 2, s.ibuf.read 3] := by
  rw [State.input, h]
  rfl

theorem readInt_big_input_four {s : State} (h : s.ilen = 4) :
    readInt .big s.input = (s.ibuf.read 0).toNat * 2 ^ 24 + (s.ibuf.read 1).toNat * 2 ^ 16 +
      (s.ibuf.read 2).toNat * 2 ^ 8 + (s.ibuf.read 3).toNat := by
  rw [input_four h, readInt, intBE_four]

theorem readInt_little_input_four {s : State} (h : s.ilen = 4) :
    readInt .little s.input = (s.ibuf.read 3).toNat * 2 ^ 24 + (s.ibuf.read 2).toNat * 2 ^ 16 +
      (s.ibuf.read 1).toNat * 2 ^ 8 + (s.ibuf.read 0).toNat := by
  rw [input_four h, readInt, intLE, ← intBE_four]
  rfl

/-- An input of 4 bytes fits a word, in either order. -/
theorem inputWord_toNat {s : State} (h : s.ilen = 4) (o : ByteOrder) : (s.inputWord o).toNat = readInt o s.input := by
  have hlt : readInt o s.input < 2 ^ 32 := by
    cases o with
    | big =>
      rw [readInt]
      simpa [h] using intBE_lt s.input
    | little =>
      rw [readInt, intLE]
      simpa [h] using intBE_lt s.input.reverse
  rw [State.inputWord, BitVec.toNat_ofNat, Nat.mod_eq_of_lt hlt]

/-- An input that is the 4 bytes of a word in some order is that word in that order (R11). -/
theorem inputWord_of_input_eq_writeInt4 {s : State} {o : ByteOrder} {w : Word}
    (h : s.input = writeInt4 o w.toNat) : s.inputWord o = w := by
  rw [State.inputWord, h, readInt_writeInt4 o _ w.isLt, BitVec.ofNat_toNat, BitVec.setWidth_eq]

theorem ilen_toNat_ne_four {s : State} (h : s.ilen ≠ 4) : s.ilen.toNat ≠ 4 := fun he => h (BitVec.eq_of_toNat_eq he)

/-- A field of an input of 4 bytes as an integer (R157). -/
theorem headerField_inputWord_toNat {s : State} (h : s.ilen = 4) {x : HdrField} (hx : x.wf = true) {o : ByteOrder}
    {v : Nat} (hv : readInt o s.input = v) :
    (headerField x (s.inputWord o)).toNat = v / 2 ^ x.offset % 2 ^ x.width := by
  rw [headerField_toNat hx, inputWord_toNat h, hv]

/-- The same as a word. -/
theorem headerField_inputWord {s : State} (h : s.ilen = 4) {x : HdrField} (hx : x.wf = true) {o : ByteOrder} {v : Nat}
    (hv : readInt o s.input = v) :
    headerField x (s.inputWord o) = BitVec.ofNat 32 (v / 2 ^ x.offset % 2 ^ x.width) := by
  rw [← headerField_inputWord_toNat h hx hv, BitVec.ofNat_toNat, BitVec.setWidth_eq]

/-- The header registers taken from an input of 4 bytes (R156, R157). -/
theorem setHeader_inputWord {s : State} (h : s.ilen = 4) {o : ByteOrder} {v : Nat} (hv : readInt o s.input = v) :
    let bits := fun x : HdrField => BitVec.ofNat 32 (v / 2 ^ x.offset % 2 ^ x.width)
    s.setHeader (s.inputWord o) =
      { s with
        hcode := bits s.params.hdr.code, hlen := bits s.params.hdr.length
        hclient := bits s.params.hdr.client, hid := bits s.params.hdr.id } := by
  obtain ⟨wcode, wlen, wclient, wid⟩ := HdrTable.fields_wf s.params.hdr_wf
  rw [State.setHeader, headerField_inputWord h wcode hv, headerField_inputWord h wlen hv,
    headerField_inputWord h wclient hv, headerField_inputWord h wid hv]

/-- The header registers taken from the word of another state's valid header (R160). -/
theorem setHeader_headerWord {s u : State} (hparams : u.params = s.params)
    (hcode : s.hcode.toNat < 2 ^ s.params.hdr.code.width) (hlen : s.hlen.toNat < 2 ^ s.params.hdr.length.width)
    (hclient : s.hclient.toNat < 2 ^ s.params.hdr.client.width) (hid : s.hid.toNat < 2 ^ s.params.hdr.id.width) :
    u.setHeader s.headerWord = { u with hcode := s.hcode, hlen := s.hlen, hclient := s.hclient, hid := s.hid } := by
  obtain ⟨ecode, elen, eclient, eid⟩ := headerField_headerWord s.params.hdr_wf hcode hlen hclient hid
  rw [State.setHeader, State.headerWord, hparams, ecode, elen, eclient, eid]

/-! The outcomes of the tests of R156 and R159, one equation for each. -/

section Outcomes

variable {s : State} {o : HdrOrder} {w : Word}

theorem exec_hdrValid_wrongLength (h : s.ilen ≠ 4) :
    exec (.hdrValid o) s = finish s (.raise .hdr s.ilen.toNat 0 0) :=
  congrArg (finish s) (if_pos (ilen_toNat_ne_four h))

theorem exec_hdrValid_four (h : s.ilen = 4) :
    exec (.hdrValid o) s =
      finish s (checkStatus s (headerField s.params.hdr.code (s.inputWord (orderOfT o)))) :=
  congrArg (finish s) (if_neg (not_not.2 (congrArg BitVec.toNat h)))

theorem checkStatus_unknown (h : w = s.params.unknownCmdCode) : checkStatus s w = .raise .unkCmd w.toNat 0 0 :=
  if_pos h

theorem checkStatus_failed (h : w ≠ s.params.unknownCmdCode) (hw : w ≠ 0) :
    checkStatus s w = .raise .cmdFail w.toNat 0 0 :=
  (if_neg h).trans (if_pos hw)

/-- Status 0 is never the reserved code (R8). -/
theorem checkStatus_zero (s : State) : checkStatus s 0 = done s :=
  (if_neg s.params.unknownCmdCode_ne_zero.symm).trans (if_neg (not_not.2 rfl))

end Outcomes

end Sys2Proof.Machine

/-! ### How the header commands end (42_header.md R152 to R160) -/

namespace Sys2Proof.Safety

open Sys2Proof.Machine

section Endings

variable {i : Instr} {s : State} {o : ByteOrder}

/-- An input that is not 4 bytes long (R156). -/
theorem endsWithFault_parseHeader (he : exec i s = finish s (parseHeader s o)) (h : s.ilen ≠ 4) :
    EndsWithFault i s 7 s.ilen.toNat 0 0 :=
  endsWithFault_of (c := .hdr) (he.trans (congrArg (finish s) (if_pos (ilen_toNat_ne_four h))))

/-- An input of 4 bytes: the header registers are taken from its word. -/
theorem endsOk_parseHeader (he : exec i s = finish s (parseHeader s o)) (h : s.ilen = 4) :
    EndsOk i s (s.setHeader (s.inputWord o)) 0 :=
  endsOk_of (he.trans (congrArg (finish s) (if_neg (not_not.2 (congrArg BitVec.toNat h)))))

/-- The 4 bytes that a header build in the order `o` leaves in OBUF. -/
theorem output_of_headerBuild {s' : State} (he : exec i s = finish s (.ok s (writeInt4 o s.headerWord.toNat) 0))
    (hs : exec i s = .next s') : s'.obuf.readBytes 0 4 = writeInt4 o s.headerWord.toNat := by
  rw [he, finish_eq_next, complete_ok] at hs
  rw [← hs, State.okCompletion_obuf]
  simpa using Memory.readBytes_writeBytes s.obuf 0 (writeInt4 o s.headerWord.toNat)

/-- HDR.VALID of an input of 4 bytes whose word, as an integer, is `v`: the tests on the CODE bits of `v` (R159). -/
theorem hdrValid_of_input {t : HdrOrder} {v : Nat} (h : s.ilen = 4) (hv : readInt (orderOfT t) s.input = v) :
    let status := v / 2 ^ s.params.hdr.code.offset % 2 ^ s.params.hdr.code.width
    (status = s.params.unknownCmdCode.toNat → EndsWithFault (.hdrValid t) s 8 status 0 0) ∧
      (status ≠ s.params.unknownCmdCode.toNat → status ≠ 0 → EndsWithFault (.hdrValid t) s 9 status 0 0) ∧
      (status = 0 → EndsOk (.hdrValid t) s s 0) := by
  obtain ⟨wcode, -⟩ := HdrTable.fields_wf s.params.hdr_wf
  have he := exec_hdrValid_four (o := t) h
  rw [← headerField_inputWord_toNat h wcode hv]
  refine ⟨fun hunknown => ?unknown, fun hknown hne => ?failed, fun hzero => ?ok⟩
  case unknown =>
    exact endsWithFault_of (c := .unkCmd)
      (he.trans (congrArg (finish s) (checkStatus_unknown (BitVec.eq_of_toNat_eq hunknown))))
  case failed =>
    exact endsWithFault_of (c := .cmdFail) (he.trans (congrArg (finish s)
      (checkStatus_failed (ne_of_apply_ne BitVec.toNat hknown) (ne_of_apply_ne BitVec.toNat hne))))
  case ok =>
    rw [BitVec.eq_of_toNat_eq (y := (0 : Word)) hzero, checkStatus_zero] at he
    exact endsOk_of he

end Endings

/-- Settles O45: the output is the four bytes of the header word, or the same reversed. -/
theorem hdrBuildPacksTheWord : Obligations.HdrBuildPacksTheWord := by
  refine ⟨rfl, rfl, fun s => ?_⟩
  have hbytes := beBytes_four s.headerWord
  refine ⟨?big, ?little⟩
  case big =>
    exact endsOkWithOutput_of (congrArg (fun out => finish s (.ok s out 0)) hbytes)
  case little =>
    exact endsOkWithOutput_of (congrArg (fun out : Bytes => finish s (.ok s out.reverse 0)) hbytes)

/-- Settles O46: the length test, then the bits of the input's word in the command's order. -/
theorem hdrParseExtractsTheFields : Obligations.HdrParseExtractsTheFields := by
  refine ⟨rfl, rfl, fun s => ⟨fun h => ?length, fun h => ?parsed⟩⟩
  case length =>
    exact ⟨endsWithFault_parseHeader (o := .big) rfl h, endsWithFault_parseHeader (o := .little) rfl h⟩
  case parsed =>
    refine ⟨?big, ?little⟩
    case big =>
      have hok := endsOk_parseHeader (i := .hdrParse) (o := .big) rfl h
      rwa [setHeader_inputWord h (readInt_big_input_four h)] at hok
    case little =>
      have hok := endsOk_parseHeader (i := .hdrParset) (o := .little) rfl h
      rwa [setHeader_inputWord h (readInt_little_input_four h)] at hok

/-- Settles O47: the length test, then the tests on the status. -/
theorem hdrValidTestsTheStatus : Obligations.HdrValidTestsTheStatus := by
  refine ⟨rfl, rfl, fun s o => ⟨fun h => ?length, fun h => ?status⟩⟩
  case length => exact endsWithFault_of (c := .hdr) (exec_hdrValid_wrongLength h)
  case status =>
    cases o with
    | raw => exact hdrValid_of_input h (readInt_big_input_four h)
    | xport => exact hdrValid_of_input h (readInt_little_input_four h)

/-- Settles O48: the input is the word that was built, in either order (`inputWord_of_input_eq_writeInt4`), and each of
its fields holds its own value (`headerField_headerWord`). -/
theorem headerParseUndoesBuild : Obligations.HeaderParseUndoesBuild := by
  intro s s' u hcode hlen hclient hid hparams hilen hbytes restored
  have hinput : u.input = s'.obuf.readBytes 0 4 := by
    rw [input_four hilen, hbytes 0 (by decide), hbytes 1 (by decide), hbytes 2 (by decide), hbytes 3 (by decide)]
    rfl
  have undoes : ∀ (o : ByteOrder) (build parse : Instr),
      exec build s = finish s (.ok s (writeInt4 o s.headerWord.toNat) 0) →
      exec parse u = finish u (parseHeader u o) → exec build s = .next s' → EndsOk parse u restored 0 := by
    intro o build parse hbuild hparse hs
    have hok := endsOk_parseHeader hparse hilen
    rwa [inputWord_of_input_eq_writeInt4 (hinput.trans (output_of_headerBuild hbuild hs)),
      setHeader_headerWord hparams hcode hlen hclient hid] at hok
  exact ⟨undoes .big .hdrBuild .hdrParse rfl rfl, undoes .little .hdrBuildt .hdrParset rfl rfl⟩

end Sys2Proof.Safety

/-! ### A fault is precise (60_exceptions.md R246, R250) -/

namespace Sys2Proof.Machine

/-- A fault code fits the field `STATUS.ERR` (R25, R246). -/
theorem FaultCode.toNat_ofNat_code (c : FaultCode) : (BitVec.ofNat 8 c.code).toNat = c.code := by
  have hc := c.code_le
  rw [BitVec.toNat_ofNat, Nat.mod_eq_of_lt (by omega)]

theorem FaultCode.zeroExtend_ofNat_code (c : FaultCode) :
    (BitVec.ofNat 8 c.code).zeroExtend 32 = BitVec.ofNat 32 c.code :=
  (BitVec.ofNat_toNat 32 _).symm.trans (congrArg (BitVec.ofNat 32) c.toNat_ofNat_code)

/-- No other fault shares the code of `E_KDF` (R246). -/
theorem FaultCode.ofNat_code_ne_ten {c : FaultCode} (h : c ≠ .kdf) : BitVec.ofNat 8 c.code ≠ 10 := fun he =>
  h (c.code_injective .kdf (c.toNat_ofNat_code.symm.trans (congrArg BitVec.toNat he)))

/-- Settles O19: a command that ends OK leaves `STATUS.ERR` = 0, and the fault entry of any other is precise. -/
theorem faultsArePrecise : Obligations.FaultsArePrecise := by
  intro i s t h herr
  obtain ⟨c, i0, i1, i2, hc, rfl⟩ | ⟨w, out, res, -, -, rfl⟩ := exec_next_cases h
  · rw [faultEntry_err, c.toNat_ofNat_code, c.zeroExtend_ofNat_code]
    exact ⟨rfl, c.code_le, FaultCode.ofNat_code_ne_ten hc⟩
  · exact absurd (okCompletion_err w out res) herr

end Sys2Proof.Machine

/-! ### The derivation block byte by byte (43_kdf.md R166, R168) and the bytes of a slot (10_state.md R42) -/

namespace Sys2Proof.Machine

/-- A number below 2^16 as 4 bytes, least significant first (R11). -/
theorem leBytes_four_of_lt {v : Nat} (h : v < 65536) :
    leBytes 4 v = [BitVec.ofNat 8 v, BitVec.ofNat 8 (v / 256), 0, 0] := by
  have htwo : v / 65536 = 0 := by omega
  have hthree : v / 16777216 = 0 := by omega
  simp [leBytes, beBytes, htwo, hthree]

/-- The derivation of `n` bytes, its block written out but for the output length in bits (R166, R168). -/
theorem kdf_eq {hash : KdfHash} {secret l bits : Bytes} {n : Nat} (h : leBytes 4 (8 * n) = bits) :
    kdf hash secret l n = (kdfHmac hash secret ([1, 0, 0, 0] ++ (l ++ List.replicate (27 - l.length) 0) ++ [0] ++
      [0x50, 0x53, 0x47, 0x2D, 0x53, 0x49, 0x47, 0x4D, 0x41, 0, 0, 0, 0, 0, 0, 0] ++ [0, 0, 0, 0] ++ bits)).take n := by
  subst h
  rfl

/-- A named derivation fills its slot (R169). -/
theorem kdf_slotLength (hash : KdfHash) (secret l : Bytes) (k : Slot) :
    (kdf hash secret l (slotLength k)).length = slotLength k := by
  rw [kdf_length]
  cases k <;> rfl

/-- What a derivation writes in a slot is what KEY.RD reads there (R173 to R177). -/
theorem slotBytes_setSlot (s : State) {k : Slot} {v : Bytes} (h : v.length = slotLength k) :
    (s.setSlot k v).slotBytes k = v := by
  cases k with
  | pmk =>
    rw [State.slotBytes, State.setSlot_pmk, if_pos rfl]
    exact beBytes_ofNat_intBE (n := 48) h
  | sek =>
    rw [State.slotBytes, State.setSlot_sek, if_pos rfl]
    exact beBytes_ofNat_intBE (n := 32) h
  | smk =>
    rw [State.slotBytes, State.setSlot_smk, if_pos rfl]
    exact beBytes_ofNat_intBE (n := 32) h

/-! The meanings of the derivations and of KEY.RD, one equation for each outcome of their tests (R170 to R177). -/

section Outcomes

variable {s : State} {n : BitVec 16} {k : Slot}

theorem exec_kdfDerive_tooLong (h : 48 < n.toNat) :
    exec (.kdfDerive n) s = finish s (.raise .badArg 5 n.toNat 0) :=
  congrArg (finish s) (if_pos h)

theorem exec_kdfDerive_noSecret (h : n.toNat ≤ 48) (hs : s.slen = 0) :
    exec (.kdfDerive n) s = finish s (.raise .keyState 3 0 0) :=
  congrArg (finish s) ((if_neg (Nat.not_lt.2 h)).trans (if_pos hs))

theorem exec_kdfDerive_derived (h : n.toNat ≤ 48) (hs : s.slen ≠ 0) :
    exec (.kdfDerive n) s = finish s (.ok s (kdf s.params.kdfHash s.secretBytes s.label n.toNat) 0) :=
  congrArg (finish s) ((if_neg (Nat.not_lt.2 h)).trans (if_neg hs))

/-- The three named derivations are one operation (R172). -/
theorem exec_derivation (k : Slot) (s : State) : exec (derivation k) s = finish s (deriveSlot s k) := by
  cases k <;> rfl

theorem deriveSlot_valid (h : s.slotValid k = true) : deriveSlot s k = .raise .keyState 1 (slotNumber k) 0 :=
  if_pos h

theorem deriveSlot_noSecret (h : s.slotValid k = false) (hs : s.slen = 0) :
    deriveSlot s k = .raise .keyState 3 0 0 :=
  (if_neg (by simp [h])).trans (if_pos hs)

theorem deriveSlot_derived (h : s.slotValid k = false) (hs : s.slen ≠ 0) :
    deriveSlot s k = done (s.setSlot k (kdf s.params.kdfHash s.secretBytes (slotLabel k) (slotLength k))) :=
  (if_neg (by simp [h])).trans (if_neg hs)

theorem exec_keyRd_empty (h : s.slotValid k = false) :
    exec (.keyRd k) s = finish s (.raise .keyState 2 (slotNumber k) 0) :=
  congrArg (finish s) (if_pos (by simp [h]))

theorem exec_keyRd_valid (h : s.slotValid k = true) : exec (.keyRd k) s = finish s (.ok s (s.slotBytes k) 0) :=
  congrArg (finish s) (if_neg (by simp [h]))

end Outcomes

end Sys2Proof.Machine

/-! ### How the key derivation commands end (43_kdf.md R170 to R177) -/

namespace Sys2Proof.Safety

open Sys2Proof.Machine

section Endings

variable {s : State} {k : Slot}

/-- A slot is written once (R172). -/
theorem endsWithFault_derivation_valid (h : s.slotValid k = true) :
    EndsWithFault (derivation k) s 15 1 (slotNumber k) 0 :=
  endsWithFault_of (c := .keyState) ((exec_derivation k s).trans (congrArg (finish s) (deriveSlot_valid h)))

theorem endsWithFault_derivation_noSecret (h : s.slotValid k = false) (hs : s.slen = 0) :
    EndsWithFault (derivation k) s 15 3 0 0 :=
  endsWithFault_of (c := .keyState) ((exec_derivation k s).trans (congrArg (finish s) (deriveSlot_noSecret h hs)))

/-- A named derivation: the bytes its slot then holds, from the bytes of its output length, and how it ends. -/
theorem endsOk_derivation {bits : Bytes} (hbits : leBytes 4 (8 * slotLength k) = bits) (h : s.slotValid k = false)
    (hs : s.slen ≠ 0) :
    ∃ v, (s.setSlot k v).slotBytes k = (kdfHmac s.params.kdfHash (s.secret.readBytes 0 s.slen.toNat)
        ([1, 0, 0, 0] ++ (slotLabel k ++ List.replicate (27 - (slotLabel k).length) 0) ++ [0] ++
          [0x50, 0x53, 0x47, 0x2D, 0x53, 0x49, 0x47, 0x4D, 0x41, 0, 0, 0, 0, 0, 0, 0] ++ [0, 0, 0, 0] ++
          bits)).take (slotLength k) ∧
      EndsOk (derivation k) s (s.setSlot k v) 0 := by
  refine ⟨kdf s.params.kdfHash s.secretBytes (slotLabel k) (slotLength k), ?bytes, ?ends⟩
  case bytes => exact (slotBytes_setSlot s (kdf_slotLength _ _ _ k)).trans (kdf_eq hbits)
  case ends => exact endsOk_of ((exec_derivation k s).trans (congrArg (finish s) (deriveSlot_derived h hs)))

theorem endsWithFault_keyRd (h : s.slotValid k = false) : EndsWithFault (.keyRd k) s 15 2 (slotNumber k) 0 :=
  endsWithFault_of (c := .keyState) (exec_keyRd_empty h)

theorem endsOkWithOutput_keyRd (h : s.slotValid k = true) : EndsOkWithOutput (.keyRd k) s s (s.slotBytes k) :=
  endsOkWithOutput_of (exec_keyRd_valid h)

end Endings

/-- Settles O49: the length is tested first, then the secret; the output length in bits is below 2^16, so its two high
bytes are zero. -/
theorem kdfDeriveOutputsTheDerivation : Obligations.KdfDeriveOutputsTheDerivation := by
  refine fun s n => ⟨wordN_eq_or _ n, ?tooLong, ?noSecret, ?derived⟩
  case tooLong =>
    intro h
    exact endsWithFault_of (c := .badArg) (exec_kdfDerive_tooLong h)
  case noSecret =>
    intro h hs
    exact endsWithFault_of (c := .keyState) (exec_kdfDerive_noSecret h hs)
  case derived =>
    intro h hs
    have hout := kdf_eq (hash := s.params.kdfHash) (secret := s.secretBytes) (l := s.label)
      (leBytes_four_of_lt (v := 8 * n.toNat) (by omega))
    have hlen : (kdf s.params.kdfHash s.secretBytes s.label n.toNat).length = n.toNat := by
      rw [kdf_length, Nat.min_eq_left h]
    refine ⟨endsOkWithOutput_of ?ends, hout ▸ hlen⟩
    case ends => exact (exec_kdfDerive_derived h hs).trans (congrArg (fun out => finish s (.ok s out 0)) hout)

/-- Settles O50: one derivation for the three slots, each with its own label and length. -/
theorem namedDerivationsWriteTheirSlot : Obligations.NamedDerivationsWriteTheirSlot := by
  refine ⟨rfl, rfl, rfl, fun s => ⟨endsWithFault_derivation_valid (k := .pmk),
    endsWithFault_derivation_valid (k := .sek), endsWithFault_derivation_valid (k := .smk),
    endsWithFault_derivation_noSecret (k := .pmk), endsWithFault_derivation_noSecret (k := .sek),
    endsWithFault_derivation_noSecret (k := .smk), ?pmk, ?sek, ?smk⟩⟩
  case pmk =>
    intro h hs
    obtain ⟨v, hbytes, hends⟩ := endsOk_derivation (k := .pmk) rfl h hs
    exact ⟨(s.setSlot .pmk v).pmk, hbytes, hends⟩
  case sek =>
    intro h hs
    obtain ⟨v, hbytes, hends⟩ := endsOk_derivation (k := .sek) rfl h hs
    exact ⟨(s.setSlot .sek v).sek, hbytes, hends⟩
  case smk =>
    intro h hs
    obtain ⟨v, hbytes, hends⟩ := endsOk_derivation (k := .smk) rfl h hs
    exact ⟨(s.setSlot .smk v).smk, hbytes, hends⟩

/-- Settles O51: the valid bit of the slot alone decides between the fault and its bytes. -/
theorem keyRdOutputsTheSlot : Obligations.KeyRdOutputsTheSlot :=
  ⟨rfl, rfl, rfl, fun _ => ⟨endsWithFault_keyRd (k := .pmk), endsWithFault_keyRd (k := .sek),
    endsWithFault_keyRd (k := .smk), endsOkWithOutput_keyRd (k := .pmk), endsOkWithOutput_keyRd (k := .sek),
    endsOkWithOutput_keyRd (k := .smk)⟩⟩

end Sys2Proof.Safety

/-! ### GCTR and GCM undo themselves (48_crypto_primitives.md R226 to R228) -/

namespace Sys2Proof.Machine

section Gctr

variable {k : BitVec 256} {cb : Block} {n : Nat} {x : Bytes}

@[simp] theorem gctrPieces_nil (k : BitVec 256) (cb : Block) (n : Nat) : gctrPieces k cb n [] = [] := by
  cases n <;> rfl

theorem gctrPieces_succ (hx : x ≠ []) :
    gctrPieces k cb (n + 1) x =
      xorBytes (x.take 16) (blockBytes (aesEncrypt k cb)) ++ gctrPieces k (inc32 cb) n (x.drop 16) :=
  if_neg (by simpa using hx)

/-- The first piece of the output of GCTR is the first piece of the input under the key stream, and the rest of the
output is that of the rest of the input: a piece is 16 bytes long unless it is the last. -/
theorem take_drop_gctrPieces_succ (hx : x ≠ []) :
    (gctrPieces k cb (n + 1) x).take 16 = xorBytes (x.take 16) (blockBytes (aesEncrypt k cb)) ∧
      (gctrPieces k cb (n + 1) x).drop 16 = gctrPieces k (inc32 cb) n (x.drop 16) := by
  rw [gctrPieces_succ hx]
  by_cases hlong : 16 ≤ x.length
  · have hpiece : (xorBytes (x.take 16) (blockBytes (aesEncrypt k cb))).length = 16 := by simp [hlong]
    exact ⟨List.take_left' hpiece, List.drop_left' hpiece⟩
  · have hpiece : (xorBytes (x.take 16) (blockBytes (aesEncrypt k cb))).length ≤ 16 := by simp
    rw [List.drop_eq_nil_of_le (by omega : x.length ≤ 16), gctrPieces_nil, List.append_nil]
    exact ⟨List.take_of_length_le hpiece, List.drop_eq_nil_of_le hpiece⟩

/-- GCTR twice over the same counter blocks changes nothing: each piece meets the same key stream twice. -/
theorem gctrPieces_gctrPieces (k : BitVec 256) (cb : Block) (n : Nat) (x : Bytes) (h : x.length ≤ n) :
    gctrPieces k cb n (gctrPieces k cb n x) = x := by
  induction n generalizing cb x with
  | zero =>
    obtain rfl : x = [] := List.eq_nil_of_length_eq_zero (Nat.le_zero.1 h)
    simp
  | succ n ih =>
    by_cases hx : x = []
    · subst hx
      simp
    · have hout : gctrPieces k cb (n + 1) x ≠ [] := by
        rwa [← List.length_pos_iff, gctrPieces_length k cb _ x h, List.length_pos_iff]
      obtain ⟨htake, hdrop⟩ := take_drop_gctrPieces_succ (k := k) (cb := cb) (n := n) hx
      rw [gctrPieces_succ hout, htake, hdrop, xorBytes_xorBytes _ _ (by simp),
        ih (inc32 cb) (x.drop 16) (by simp; omega), List.take_append_drop]

end Gctr

/-- GCTR is its own inverse (R226). -/
theorem gctr_gctr (k : BitVec 256) (icb : Block) (x : Bytes) : gctr k icb (gctr k icb x) = x := by
  simp only [gctr, gctrPieces_length k icb x.length x le_rfl]
  exact gctrPieces_gctrPieces k icb x.length x le_rfl

section Sealing

variable {k : BitVec 256} {iv : BitVec 96} {c t : Bytes}

theorem gcmOpen_of_tag_ne (h : gcmTag k iv c ≠ t) : gcmOpen k iv c t = none := if_pos h

theorem gcmOpen_of_tag_eq (h : gcmTag k iv c = t) : gcmOpen k iv c t = some (gctr k (inc32 (counterZero iv)) c) :=
  if_neg (not_not.2 h)

/-- Opening what was sealed gives the plaintext back (R227, R228). -/
theorem gcmOpen_gcmSeal (k : BitVec 256) (iv : BitVec 96) (p : Bytes) :
    gcmOpen k iv (gcmSeal k iv p).1 (gcmSeal k iv p).2 = some p :=
  (gcmOpen_of_tag_eq rfl).trans (congrArg some (gctr_gctr k _ p))

end Sealing

/-! ### The parts of a frame (44_gcm.md R188, R193, R194) -/

section FrameParts

variable (o : ByteOrder) (k : BitVec 256) (iv : BitVec 96) (p : Bytes)

@[simp] theorem gcmSeal_ciphertext_length : (gcmSeal k iv p).1.length = p.length := gctr_length k _ p

theorem take_four_frame : (frame o k iv p).take 4 = writeInt4 o 12 := by
  simp only [frame, List.append_assoc]
  exact List.take_left' (writeInt4_length o 12)

theorem drop_four_frame :
    (frame o k iv p).drop 4 = beBytes 12 iv.toNat ++ ((gcmSeal k iv p).1 ++ (gcmSeal k iv p).2) := by
  simp only [frame, List.append_assoc]
  exact List.drop_left' (writeInt4_length o 12)

@[simp] theorem frameIv_frame : frameIv (frame o k iv p) = iv := by
  have hlt : iv.toNat < 256 ^ 12 := iv.isLt
  rw [frameIv, drop_four_frame, List.take_left' (beBytes_length 12 _), intBE_beBytes 12 _ hlt, BitVec.ofNat_toNat,
    BitVec.setWidth_eq]

@[simp] theorem frameCiphertext_frame : frameCiphertext (frame o k iv p) = (gcmSeal k iv p).1 := by
  have hdrop : (frame o k iv p).drop 16 = (gcmSeal k iv p).1 ++ (gcmSeal k iv p).2 := by
    rw [show 16 = 4 + 12 from rfl, ← List.drop_drop, drop_four_frame]
    exact List.drop_left' (beBytes_length 12 _)
  rw [frameCiphertext, hdrop, frame_length, Nat.add_sub_cancel]
  exact List.take_left' (gcmSeal_ciphertext_length k iv p)

@[simp] theorem frameTag_frame : frameTag (frame o k iv p) = (gcmSeal k iv p).2 := by
  have hbefore : (writeInt4 o 12 ++ beBytes 12 iv.toNat ++ (gcmSeal k iv p).1).length =
      (frame o k iv p).length - 16 := by
    simp only [List.length_append, writeInt4_length, beBytes_length, gcmSeal_ciphertext_length, frame_length]
    omega
  exact List.drop_left' hbefore

@[simp] theorem frameShapeOk_frame : frameShapeOk o (frame o k iv p) = true := by
  rw [frameShapeOk_iff, frame_length, take_four_frame, readInt_writeInt4 o 12 (by decide)]
  exact ⟨Nat.le_add_left 32 _, rfl⟩

end FrameParts

/-! ### The parts of an input as bytes of IBUF (44_gcm.md R193, R194) -/

theorem Memory.take_readBytes (m : Memory) (a : Nat) {j n : Nat} (h : j ≤ n) :
    (m.readBytes a n).take j = m.readBytes a j := by
  rw [Memory.readBytes, ← List.map_take, List.take_range, Nat.min_eq_left h, Memory.readBytes]

theorem Memory.drop_readBytes (m : Memory) (a j n : Nat) :
    (m.readBytes a n).drop j = m.readBytes (a + j) (n - j) := by
  apply List.ext_getElem
  · simp
  · intro i _ _
    rw [List.getElem_drop, Memory.readBytes_getElem, Memory.readBytes_getElem, Nat.add_assoc]

section InputParts

variable {s : State}

theorem frameIv_input (h : 32 ≤ s.ilen.toNat) :
    frameIv s.input = BitVec.ofNat 96 (intBE (s.ibuf.readBytes 4 12)) := by
  rw [frameIv, State.input, Memory.drop_readBytes, Memory.take_readBytes _ _ (by omega), Nat.zero_add]

theorem frameCiphertext_input (s : State) :
    frameCiphertext s.input = s.ibuf.readBytes 16 (s.ilen.toNat - 32) := by
  rw [frameCiphertext, input_length, State.input, Memory.drop_readBytes, Memory.take_readBytes _ _ (by omega),
    Nat.zero_add]

theorem frameTag_input (h : 32 ≤ s.ilen.toNat) : frameTag s.input = s.ibuf.readBytes (s.ilen.toNat - 16) 16 := by
  rw [frameTag, input_length, State.input, Memory.drop_readBytes, Nat.zero_add,
    show s.ilen.toNat - (s.ilen.toNat - 16) = 16 by omega]

theorem State.cipherOrder_eq_big (h : s.cfg.extractLsb' 2 2 = 1#2) : s.cipherOrder = .big := if_pos h

theorem State.cipherOrder_eq_little (h : s.cfg.extractLsb' 2 2 ≠ 1#2) : s.cipherOrder = .little := if_neg h

/-- The IV length a frame in IBUF declares, in the configured order (R188). -/
theorem readInt_cipherOrder_four (s : State) :
    readInt s.cipherOrder (s.ibuf.readBytes 0 4) =
      if s.cfg.extractLsb' 2 2 = 1#2 then
        (s.ibuf.read 0).toNat * 2 ^ 24 + (s.ibuf.read 1).toNat * 2 ^ 16 + (s.ibuf.read 2).toNat * 2 ^ 8 +
          (s.ibuf.read 3).toNat
      else
        (s.ibuf.read 3).toNat * 2 ^ 24 + (s.ibuf.read 2).toNat * 2 ^ 16 + (s.ibuf.read 1).toNat * 2 ^ 8 +
          (s.ibuf.read 0).toNat := by
  split
  · next h =>
    rw [State.cipherOrder_eq_big h, readInt, ← intBE_four]
    rfl
  · next h =>
    rw [State.cipherOrder_eq_little h, readInt, intLE, ← intBE_four]
    rfl

/-- The shape of an input is that of a frame when it is long enough and declares an IV of 12 bytes. -/
theorem frameShapeOk_input_iff (s : State) :
    frameShapeOk s.cipherOrder s.input = true ↔
      32 ≤ s.ilen.toNat ∧ readInt s.cipherOrder (s.ibuf.readBytes 0 4) = 12 := by
  rw [frameShapeOk_iff, input_length]
  refine and_congr_right fun hlen => ?_
  rw [State.input, Memory.take_readBytes _ _ (by omega)]

end InputParts

/-- The IV-length field of a frame in the configured order (R188). -/
theorem writeInt4_cipherOrder_twelve (s : State) :
    writeInt4 s.cipherOrder 12 = if s.cfg.extractLsb' 2 2 = 1#2 then [0, 0, 0, 12] else [12, 0, 0, 0] := by
  split
  · next h => rw [State.cipherOrder_eq_big h]; rfl
  · next h => rw [State.cipherOrder_eq_little h]; rfl

/-! The meanings of the cipher commands, one equation for each outcome of their tests (R186, R187, R190, R194). -/

section Outcomes

variable {s : State} {i : Instr} {which : Nat}

theorem exec_gkeyLd_ibuf_wrongLength (h : s.ilen.toNat ≠ 32) :
    exec (.gkeyLd .ibuf) s = finish s (.raise .badArg 6 s.ilen.toNat 0) :=
  congrArg (finish s) (if_pos h)

theorem exec_gkeyLd_ibuf_loaded (h : s.ilen.toNat = 32) :
    exec (.gkeyLd .ibuf) s = finish s (done (s.setGkey (BitVec.ofNat 256 (intBE s.input)))) :=
  congrArg (finish s) (if_neg (not_not.2 h))

theorem exec_gkeyLd_sek_empty (h : s.slotValid .sek = false) :
    exec (.gkeyLd .sek) s = finish s (.raise .keyState 2 2 0) :=
  congrArg (finish s) (if_pos (by simp [h]))

theorem exec_gkeyLd_sek_loaded (h : s.slotValid .sek = true) :
    exec (.gkeyLd .sek) s = finish s (done (s.setGkey s.sek)) :=
  congrArg (finish s) (if_neg (by simp [h]))

theorem missingSetting_noKey (h : s.gkeyValid = false) : s.missingSetting = some 1 := if_pos (by simp [h])

theorem missingSetting_noProvider (h : s.gkeyValid = true) (hp : s.prov = 0) : s.missingSetting = some 2 :=
  (if_neg (by simp [h])).trans (if_pos hp)

theorem missingSetting_noOrder (h : s.gkeyValid = true) (hp : s.prov ≠ 0) (ho : s.ord = 0) :
    s.missingSetting = some 3 :=
  (if_neg (by simp [h])).trans ((if_neg hp).trans (if_pos ho))

theorem missingSetting_eq_none_iff (s : State) :
    s.missingSetting = none ↔ s.gkeyValid = true ∧ s.prov ≠ 0 ∧ s.ord ≠ 0 := by
  obtain ⟨hk, hm⟩ | ⟨-, hp, hm⟩ | ⟨-, -, ho, hm⟩ | ⟨hk, hp, ho, hm⟩ := missingSetting_cases s
  · simp [hm, hk]
  · simp [hm, hp]
  · simp [hm, ho]
  · exact iff_of_true hm ⟨hk, hp, ho⟩

/-- Both cipher commands make the same test before anything else. -/
theorem exec_cipher_unconfigured (hi : i = .gcmEnc ∨ i = .gcmDec) (h : s.missingSetting = some which) :
    exec i s = finish s (.raise .notConf which 0 0) := by
  have hraise (e : Ending) : whenConfigured s e = .raise .notConf which 0 0 := by rw [whenConfigured, h]
  obtain rfl | rfl := hi
  · exact congrArg (finish s) (hraise (encryptInput s))
  · exact congrArg (finish s) (hraise (decryptInput s))

theorem whenConfigured_of_none (h : s.missingSetting = none) (e : Ending) : whenConfigured s e = e := by
  rw [whenConfigured, h]

theorem exec_gcmEnc_configured (h : s.missingSetting = none) : exec .gcmEnc s = finish s (encryptInput s) :=
  congrArg (finish s) (whenConfigured_of_none h _)

theorem exec_gcmDec_configured (h : s.missingSetting = none) : exec .gcmDec s = finish s (decryptInput s) :=
  congrArg (finish s) (whenConfigured_of_none h _)

theorem encryptInput_tooLong (h : s.params.obufBytes < s.ilen.toNat + 32) :
    encryptInput s = .raise .capacity (s.ilen.toNat + 32) s.params.obufBytes 0 :=
  if_pos h

theorem encryptInput_sealed (h : s.ilen.toNat + 32 ≤ s.params.obufBytes) :
    encryptInput s = .ok s.afterDraw (frame s.cipherOrder s.gkey s.nextDraw s.input) 0 :=
  if_neg (Nat.not_lt.2 h)

theorem decryptInput_badShape (h : frameShapeOk s.cipherOrder s.input = false) :
    decryptInput s = .raise .decrypt 0 0 0 :=
  if_pos (by simp [h])

theorem decryptInput_tooLong (h : frameShapeOk s.cipherOrder s.input = true)
    (hc : s.params.obufBytes < s.ilen.toNat - 32) :
    decryptInput s = .raise .capacity (s.ilen.toNat - 32) s.params.obufBytes 0 := by
  simp [decryptInput, h, frameCiphertext_length, hc]

theorem decryptInput_wrongTag (h : frameShapeOk s.cipherOrder s.input = true)
    (hc : s.ilen.toNat - 32 ≤ s.params.obufBytes)
    (ho : gcmOpen s.gkey (frameIv s.input) (frameCiphertext s.input) (frameTag s.input) = none) :
    decryptInput s = .raise .decrypt 0 0 0 := by
  simp [decryptInput, h, frameCiphertext_length, Nat.not_lt.2 hc, ho]

theorem decryptInput_opened {p : Bytes} (h : frameShapeOk s.cipherOrder s.input = true)
    (hc : s.ilen.toNat - 32 ≤ s.params.obufBytes)
    (ho : gcmOpen s.gkey (frameIv s.input) (frameCiphertext s.input) (frameTag s.input) = some p) :
    decryptInput s = .ok s p 0 := by
  simp [decryptInput, h, frameCiphertext_length, Nat.not_lt.2 hc, ho]

end Outcomes

/-- A GCM.ENC that ended OK was configured and had room, and what the port shows of OBUF is the frame (R190). -/
theorem gcmEnc_ended_ok {s s' : State} (h : exec .gcmEnc s = .next s') (herr : s'.err = 0) :
    s.missingSetting = none ∧ s.ilen.toNat + 32 ≤ s.params.obufBytes ∧
      s'.obuf.readBytes 0 s'.olen.toNat = frame s.cipherOrder s.gkey s.nextDraw s.input := by
  obtain ⟨which, hm, -⟩ | ⟨hm, -⟩ := whenConfigured_cases s (encryptInput s)
  · rw [exec_cipher_unconfigured (.inl rfl) hm, finish_eq_next, complete_raise] at h
    exact absurd herr (h ▸ faultEntry_err_ne_zero s _ _ _ _)
  · rw [exec_gcmEnc_configured hm, finish_eq_next] at h
    obtain ⟨-, he⟩ | ⟨hroom, he⟩ := encryptInput_cases s
    · rw [he, complete_raise] at h
      exact absurd herr (h ▸ faultEntry_err_ne_zero s _ _ _ _)
    · rw [he, complete_ok] at h
      obtain ⟨-, ⟨-, hobuf⟩, -⟩ := s.params.bounds
      have hlen : (frame s.cipherOrder s.gkey s.nextDraw s.input).length = s.ilen.toNat + 32 := by simp
      refine ⟨hm, hroom, ?_⟩
      rw [← h, State.okCompletion_obuf, State.okCompletion_olen, BitVec.toNat_ofNat, Nat.mod_eq_of_lt (by omega)]
      exact Memory.readBytes_writeBytes _ 0 _

end Sys2Proof.Machine

/-! ### How the cipher commands end (44_gcm.md R186 to R196) -/

namespace Sys2Proof.Safety

open Sys2Proof.Machine

/-- Settles O52: each source has one test before the key is loaded. -/
theorem gkeyLdLoadsTheKey : Obligations.GkeyLdLoadsTheKey := by
  refine ⟨rfl, rfl, fun s => ⟨?wrongLength, ?input, ?empty, ?slot⟩⟩
  case wrongLength =>
    intro h
    exact endsWithFault_of (c := .badArg)
      (exec_gkeyLd_ibuf_wrongLength fun he => h (BitVec.eq_of_toNat_eq he))
  case input =>
    intro h
    have hlen : s.ilen.toNat = 32 := congrArg BitVec.toNat h
    have hinput : s.input = s.ibuf.readBytes 0 32 := by rw [State.input, hlen]
    refine ⟨BitVec.ofNat 256 (intBE s.input), ?bytes, endsOk_of (exec_gkeyLd_ibuf_loaded hlen)⟩
    case bytes => exact (beBytes_ofNat_intBE (n := 32) ((input_length s).trans hlen)).trans hinput
  case empty =>
    intro h
    exact endsWithFault_of (c := .keyState) (exec_gkeyLd_sek_empty h)
  case slot =>
    intro h
    exact endsOk_of (exec_gkeyLd_sek_loaded h)

/-- Settles O53: the test of the settings stands before either command's own part. -/
theorem unconfiguredCipherFaults : Obligations.UnconfiguredCipherFaults := by
  intro s i hi
  have faults {which : Nat} (hm : s.missingSetting = some which) : EndsWithFault i s 12 which 0 0 :=
    endsWithFault_of (c := .notConf) (exec_cipher_unconfigured hi hm)
  exact ⟨fun hk => faults (missingSetting_noKey hk), fun hk hp => faults (missingSetting_noProvider hk hp),
    fun hk hp ho => faults (missingSetting_noOrder hk hp ho)⟩

/-- Settles O54: the capacity is the only test of a configured GCM.ENC, and the draw comes after it. -/
theorem gcmEncOutputsTheFrame : Obligations.GcmEncOutputsTheFrame := by
  refine ⟨rfl, ?_⟩
  intro s hk hp ho iv c lengthField out
  have he : exec .gcmEnc s = finish s (encryptInput s) :=
    exec_gcmEnc_configured ((missingSetting_eq_none_iff s).2 ⟨hk, hp, ho⟩)
  have hout : frame s.cipherOrder s.gkey iv s.input = out :=
    congrArg (· ++ beBytes 12 iv.toNat ++ c ++ gcmTag s.gkey iv c) (writeInt4_cipherOrder_twelve s)
  refine ⟨fun hcap => ?tooLong, fun hcap => ⟨?sealed, ?length⟩⟩
  case tooLong => exact endsWithFault_of (c := .capacity) (he.trans (congrArg (finish s) (encryptInput_tooLong hcap)))
  case sealed =>
    rw [← hout]
    exact endsOkWithOutput_of (he.trans (congrArg (finish s) (encryptInput_sealed hcap)))
  case length => rw [← hout, frame_length, input_length]

/-- Settles O55: the tests in their order; checks 1 to 4 of R193 are the one test of the frame's shape. -/
theorem gcmDecOutputsThePlaintext : Obligations.GcmDecOutputsThePlaintext := by
  refine ⟨rfl, ?_⟩
  intro s hk hp ho n b declared iv c tag
  have he : exec .gcmDec s = finish s (decryptInput s) :=
    exec_gcmDec_configured ((missingSetting_eq_none_iff s).2 ⟨hk, hp, ho⟩)
  have hshape : frameShapeOk s.cipherOrder s.input = true ↔ 32 ≤ n ∧ declared = 12 := by
    rw [frameShapeOk_input_iff, readInt_cipherOrder_four]
  have hopen (hn : 32 ≤ n) : gcmOpen s.gkey (frameIv s.input) (frameCiphertext s.input) (frameTag s.input) =
      gcmOpen s.gkey iv c tag := by
    rw [frameIv_input hn, frameCiphertext_input, frameTag_input hn]
  have badShape (h : ¬(32 ≤ n ∧ declared = 12)) : EndsWithFault .gcmDec s 11 0 0 0 :=
    endsWithFault_of (c := .decrypt) (he.trans (congrArg (finish s)
      (decryptInput_badShape (Bool.eq_false_iff.2 fun hok => h (hshape.1 hok)))))
  refine ⟨fun hn => badShape fun h => Nat.not_le.2 hn h.1, fun hd => badShape fun h => hd h.2,
    fun hn hd hc => ?tooLong, fun hn hd hc htag => ?wrongTag, fun hn hd hc htag => ?opened⟩
  case tooLong =>
    exact endsWithFault_of (c := .capacity)
      (he.trans (congrArg (finish s) (decryptInput_tooLong (hshape.2 ⟨hn, hd⟩) hc)))
  case wrongTag =>
    exact endsWithFault_of (c := .decrypt) (he.trans (congrArg (finish s)
      (decryptInput_wrongTag (hshape.2 ⟨hn, hd⟩) hc ((hopen hn).trans (gcmOpen_of_tag_ne htag)))))
  case opened =>
    exact endsOkWithOutput_of (he.trans (congrArg (finish s)
      (decryptInput_opened (hshape.2 ⟨hn, hd⟩) hc ((hopen hn).trans (gcmOpen_of_tag_eq htag)))))

/-- Settles O56: what GCM.ENC left is a frame (`gcmEnc_ended_ok`), whose parts pass every test of GCM.DEC, and opening
undoes sealing (`gcmOpen_gcmSeal`). -/
theorem decryptUndoesEncrypt : Obligations.DecryptUndoesEncrypt := by
  intro s s' u henc herr hparams hgkey hcfg hvalid hinput
  obtain ⟨hm, hroom, hframe⟩ := gcmEnc_ended_ok henc herr
  obtain ⟨-, hprov, hord⟩ := (missingSetting_eq_none_iff s).1 hm
  have eprov : u.prov = s.prov := congrArg (BitVec.extractLsb' 0 2) hcfg
  have eord : u.ord = s.ord := congrArg (BitVec.extractLsb' 2 2) hcfg
  have eorder : u.cipherOrder = s.cipherOrder := by rw [State.cipherOrder, eord, State.cipherOrder]
  have hconf : u.missingSetting = none := (missingSetting_eq_none_iff u).2 ⟨hvalid, eprov ▸ hprov, eord ▸ hord⟩
  have huinput : u.input = frame s.cipherOrder s.gkey s.nextDraw s.input := hinput.trans hframe
  have hulen : u.ilen.toNat = s.ilen.toNat + 32 := by rw [← input_length u, huinput, frame_length, input_length]
  have hdec : decryptInput u = .ok u s.input 0 := by
    apply decryptInput_opened
    · rw [eorder, huinput, frameShapeOk_frame]
    · rw [hulen, hparams]
      omega
    · rw [huinput, hgkey, frameIv_frame, frameCiphertext_frame, frameTag_frame, gcmOpen_gcmSeal]
  exact endsOkWithOutput_of ((exec_gcmDec_configured hconf).trans (congrArg (finish u) hdec))

/-- Settles O57: of the ways GCM.DEC can end only the two with the code 11 are left, and both are the same fault
entry. -/
theorem decryptionFailuresLookAlike : Obligations.DecryptionFailuresLookAlike := by
  intro s t h herr
  obtain ⟨which, hm, -⟩ | ⟨hm, -⟩ := whenConfigured_cases s (decryptInput s)
  · rw [exec_cipher_unconfigured (.inr rfl) hm, finish_eq_next, complete_raise] at h
    rw [← h, faultEntry_err] at herr
    exact absurd herr (by decide)
  · rw [exec_gcmDec_configured hm, finish_eq_next] at h
    obtain ⟨-, he⟩ | ⟨-, -, he⟩ | ⟨-, -, -, he⟩ | ⟨p, -, -, -, he⟩ := decryptInput_cases s
    · rw [he, complete_raise] at h
      exact h.symm
    · rw [he, complete_raise] at h
      rw [← h, faultEntry_err] at herr
      exact absurd herr (by decide)
    · rw [he, complete_raise] at h
      exact h.symm
    · rw [he, complete_ok] at h
      rw [← h, okCompletion_err] at herr
      exact absurd herr (by decide)

end Sys2Proof.Safety

/-! ### The system commands (45_system.md R205 to R208)

None of the three has a test or a byte output, so each is its own writes under an OK completion. -/

namespace Sys2Proof.Machine

theorem exec_nop (s : State) : exec .nop s = finish s (done s) := rfl

theorem exec_kclr (s : State) : exec .kclr s = finish s (done s.clearKeys) := rfl

/-- The registers an OK completion writes have 0 as their reset value, so it leaves the reset state (R207). -/
@[simp] theorem okCompletion_resetBlock (s : State) : s.resetBlock.okCompletion [] 0 = s.resetBlock := rfl

/-- The state after SRST is the state after the reset input (R207, R280). -/
theorem exec_srst (s : State) : exec .srst s = .next s.resetBlock :=
  calc exec .srst s
    _ = finish s (done s.resetBlock) := rfl
    _ = .next s.resetBlock := by rw [finish_eq_next, complete_done, okCompletion_resetBlock]

end Sys2Proof.Machine

namespace Sys2Proof.Safety

open Sys2Proof.Machine

/-- Settles O26: NOP is an OK completion of the state it finds. -/
theorem nopOnlyCompletes : Obligations.NopOnlyCompletes := ⟨rfl, fun s => endsOk_of (exec_nop s)⟩

/-- Settles O27: the state after SRST is `resetBlock` (`exec_srst`), whose fields are the table's. -/
theorem srstResetsTheBlock : Obligations.SrstResetsTheBlock := by
  refine ⟨rfl, fun s => ⟨s.resetBlock, exec_srst s, ?table⟩⟩
  case table => simp

/-- Settles O28: SECRET is left without a cell, so each of its bytes reads 0. -/
theorem kclrClearsTheKeys : Obligations.KclrClearsTheKeys :=
  ⟨rfl, fun s => ⟨[], Memory.read_nil, endsOk_of (exec_kclr s)⟩⟩

end Sys2Proof.Safety

/-! ### The product of blocks (48_crypto_primitives.md R223) -/

namespace Sys2Proof.Machine

section Gfmul

/-- The multiple of the second factor that `gfmul` uses after `v` (R223). -/
def gfNext (v : Block) : Block := if v.getLsbD 0 then (v >>> 1) ^^^ (0xE1#128 <<< 120) else v >>> 1

theorem gfStep_fst (x : Block) (zv : Block × Block) (i : Nat) :
    (gfStep x zv i).1 = zv.1 ^^^ (if x.getMsbD i then zv.2 else 0) := by
  cases h : x.getMsbD i <;> simp [gfStep, h]

@[simp] theorem gfStep_snd (x : Block) (zv : Block × Block) (i : Nat) : (gfStep x zv i).2 = gfNext zv.2 := rfl

/-- The accumulator and the multiple after the first `n` steps of `gfmul x y`. -/
def gfRun (x y : Block) (n : Nat) : Block × Block := (List.range n).foldl (gfStep x) (0, y)

theorem gfmul_eq_gfRun (x y : Block) : gfmul x y = (gfRun x y 128).1 := rfl

@[simp] theorem gfRun_zero (x y : Block) : gfRun x y 0 = (0, y) := rfl

theorem gfRun_succ (x y : Block) (n : Nat) : gfRun x y (n + 1) = gfStep x (gfRun x y n) n := by
  simp [gfRun, List.range_succ]

/-- The multiples are those of `y` alone: the first factor only says which of them are summed. -/
theorem gfRun_snd (x y : Block) (n : Nat) : (gfRun x y n).2 = gfNext^[n] y := by
  induction n with
  | zero => rfl
  | succ n ih => rw [gfRun_succ, gfStep_snd, ih, Function.iterate_succ_apply']

theorem gfRun_fst_succ (x y : Block) (n : Nat) :
    (gfRun x y (n + 1)).1 = (gfRun x y n).1 ^^^ (if x.getMsbD n then gfNext^[n] y else 0) := by
  rw [gfRun_succ, gfStep_fst, gfRun_snd]

/-! #### Additivity in the first factor -/

theorem gfRun_xor_fst (x x' y : Block) (n : Nat) :
    (gfRun (x ^^^ x') y n).1 = (gfRun x y n).1 ^^^ (gfRun x' y n).1 := by
  induction n with
  | zero => simp
  | succ n ih =>
    have hterm : (if (x ^^^ x').getMsbD n then gfNext^[n] y else 0) =
        (if x.getMsbD n then gfNext^[n] y else 0) ^^^ (if x'.getMsbD n then gfNext^[n] y else 0) := by
      cases hx : x.getMsbD n <;> cases hx' : x'.getMsbD n <;> simp [hx, hx']
    simp only [gfRun_fst_succ, ih, hterm]
    ac_rfl

theorem gfmul_xor (x x' y : Block) : gfmul (x ^^^ x') y = gfmul x y ^^^ gfmul x' y :=
  gfRun_xor_fst x x' y 128

/-! #### The identity on both sides -/

/-- The block with bit `n` alone, counted from the left (R222); `gfBit 0` is `80 00 ... 00`. -/
def gfBit (n : Nat) : Block := BitVec.twoPow 128 (127 - n)

theorem gfBit_zero : gfBit 0 = 1#128 <<< 127 := rfl

variable {n : Nat}

theorem getMsbD_gfBit (h : n < 128) (i : Nat) : (gfBit n).getMsbD i = decide (i = n) := by
  rw [gfBit, BitVec.getMsbD_twoPow, show 128 - (127 - n) - 1 = n by omega, decide_eq_true (by omega : 127 - n < 128),
    Bool.true_and]

/-- A bit that is not the last moves one place to the right, and nothing is reduced. -/
theorem gfNext_gfBit (h : n + 1 < 128) : gfNext (gfBit n) = gfBit (n + 1) := by
  have heven : (gfBit n).getLsbD 0 = false := by
    rw [gfBit, BitVec.getLsbD_twoPow, decide_eq_false (by omega : ¬ 127 - n = 0), Bool.and_false]
  rw [gfNext, heven, if_neg Bool.false_ne_true]
  refine BitVec.eq_of_getMsbD_eq fun i hi => ?_
  rw [BitVec.getMsbD_ushiftRight, getMsbD_gfBit (by omega), getMsbD_gfBit h]
  cases i <;> simp [hi]

/-- The multiples of the identity are the single bits, from the left to the right. -/
theorem gfNext_iterate_gfBit_zero (h : n < 128) : gfNext^[n] (gfBit 0) = gfBit n := by
  induction n with
  | zero => rfl
  | succ n ih => rw [Function.iterate_succ_apply', ih (by omega), gfNext_gfBit h]

/-- As the first factor the identity picks `y` in the first step and nothing after it. -/
theorem gfRun_gfBit_zero_left_fst (y : Block) (n : Nat) : (gfRun (gfBit 0) y (n + 1)).1 = y := by
  induction n with
  | zero => simp [gfRun_fst_succ, getMsbD_gfBit]
  | succ n ih => simp [gfRun_fst_succ _ _ (n + 1), ih, getMsbD_gfBit]

theorem gfmul_gfBit_zero_left (y : Block) : gfmul (gfBit 0) y = y := gfRun_gfBit_zero_left_fst y 127

/-- As the second factor the identity gives each step its own bit: after `n` steps the accumulator has the first `n`
bits of `x`. -/
theorem getMsbD_gfRun_gfBit_zero_right (x : Block) (h : n ≤ 128) (i : Nat) :
    (gfRun x (gfBit 0) n).1.getMsbD i = (decide (i < n) && x.getMsbD i) := by
  induction n with
  | zero => simp
  | succ n ih =>
    have hterm : (if x.getMsbD n then gfBit n else 0).getMsbD i = (decide (i = n) && x.getMsbD i) := by
      by_cases hi : i = n
      · subst hi
        cases hx : x.getMsbD i <;> simp [getMsbD_gfBit h]
      · cases x.getMsbD n <;> simp [getMsbD_gfBit h, hi]
    rw [gfRun_fst_succ, gfNext_iterate_gfBit_zero h, BitVec.getMsbD_xor, ih (by omega), hterm]
    obtain hi | rfl | hi := lt_trichotomy i n
    · simp [hi, hi.ne, hi.trans n.lt_succ_self]
    · simp
    · simp [hi.ne', hi.not_gt, show ¬ i < n + 1 by omega]

theorem gfmul_gfBit_zero_right (x : Block) : gfmul x (gfBit 0) = x := by
  refine BitVec.eq_of_getMsbD_eq fun i hi => ?_
  rw [gfmul_eq_gfRun, getMsbD_gfRun_gfBit_zero_right x le_rfl, decide_eq_true hi, Bool.true_and]

end Gfmul

end Sys2Proof.Machine

namespace Sys2Proof.Safety

open Sys2Proof.Machine

/-- Settles O58: each piece meets the same key stream twice (`gctrPieces_gctrPieces`). -/
theorem gctrUndoesItself : Obligations.GctrUndoesItself := gctr_gctr

/-- Settles O59: as the second factor the identity runs through the single bits, as the first it picks one multiple;
additivity holds after every step (`gfRun_xor_fst`). -/
theorem gfmulIsLinearWithIdentity : Obligations.GfmulIsLinearWithIdentity := by
  refine ⟨fun x => ?identity, gfmul_xor⟩
  case identity =>
    rw [← gfBit_zero]
    exact ⟨gfmul_gfBit_zero_right x, gfmul_gfBit_zero_left x⟩

end Sys2Proof.Safety

/-! ### How every command ends (60_exceptions.md R245, R249) -/

namespace Sys2Proof.Machine

/-- No command's own writes touch `ESTICKY`, those of SRST apart (R207). -/
theorem Writes.esticky_eq {i : Instr} {s t : State} (h : Writes i s t) (hi : i ≠ .srst) : t.esticky = s.esticky :=
  h.writesPart.esticky fun hb => hi (writtenPart_eq_block.1 hb)

/-- Settles O20: an OK completion clears the four registers and leaves `ESTICKY`; a fault entry does not end with `ERR`
0. -/
theorem okCompletionClearsInformation : Obligations.OkCompletionClearsInformation := by
  intro i s t h herr
  obtain ⟨c, i0, i1, i2, -, rfl⟩ | ⟨w, out, res, hw, -, rfl⟩ := exec_next_cases h
  · exact absurd herr (faultEntry_err_ne_zero s c i0 i1 i2)
  · exact ⟨State.okCompletion_status w out res, State.okCompletion_einfo0 w out res, State.okCompletion_einfo1 w out res,
      State.okCompletion_einfo2 w out res, fun hi => (State.okCompletion_esticky w out res).trans (hw.esticky_eq hi)⟩

/-- Settles O18: the meaning of every command is the completion of some ending, a fault included (R245). -/
theorem everyCommandCompletes : Obligations.EveryCommandCompletes := by
  intro i s
  obtain ⟨e, he, -⟩ := exec_cases i s
  exact ⟨s.complete e, he.trans ((finish_eq_next s _ e).2 rfl)⟩

end Sys2Proof.Machine
